-- ==== Sys2Proof/Word.lean ====
section
/-! DEFINITION. The two word types of VLICORE's ports: R28, R29 (10_state.md) give `a`, `b` and `y` 64 bits and `t` 8 bits. -/

namespace Sys2Proof

/-- A 64-bit port value: `a`, `b` or `y` (R28, R29). -/
abbrev Word := BitVec 64

/-- One byte: the type byte `t` (R28), or one byte of a VLI on the wire (R12). -/
abbrev Byte := BitVec 8

end Sys2Proof
end

