-- ==== Sys2Proof/Config.lean ====
section
/-! DEFINITION. What the spec leaves to the one who builds the circuit.

`N_INSTANCES` (R9, R141, D24) is no constant here: R9 says the model takes it as an argument, and it is the argument of
`Sys2Proof.Machine.Platform`. -/

namespace Sys2Proof

/-- `T_SETTLE` (R154, D16, U5): the time from the last input change to the first moment at which the host may sample the
outputs. "No source gives it, and the spec leaves it open as a parameter", so nothing can be proved about its value.
Log entry 7. -/
opaque Config.tSettle : Nat

end Sys2Proof
end

