-- ==== Sys2Proof/Syntax.lean ====
section
/-! DEFINITION. A request as VLICORE's ports carry it (`Request`, R50), and as the operation it selects (`Instr`, R51, R52):
one constructor for each row of spec/opcode_table.json, holding what that row's format reads. -/

namespace Sys2Proof

/-- One set of values on the input ports (R28, R50): "a record of ports, not a serialised word". Every port is present in
every request. -/
@[ext] structure Request where
  /-- the operation select -/
  op : BitVec 3
  /-- first operand bus -/
  a : Word
  /-- second operand bus -/
  b : Word
  /-- declared length in bytes -/
  n : BitVec 4
  /-- STREAM type byte, or the three flags -/
  t : Byte
  deriving DecidableEq, Repr

/-- The request whose every port is 0 (R76: "Ports the syntax does not name are 0"). -/
def Request.zero : Request := ⟨0#3, 0#64, 0#64, 0#4, 0#8⟩

/-- The operations of R51 with the operands of their formats (R52). An unread port or bit has no place here (R53), but for
`sidClass`, whose `a[63:2]` "are carried but not read" (R52). -/
inductive Instr where
  /-- `op` = 0b000, format DEC: the wire bytes left-justified, and the declared length in bytes (R80) -/
  | vliDecode (a : Word) (n : BitVec 4)
  /-- `op` = 0b001, format VAL: the value to encode (R85) -/
  | vliEncode (a : Word)
  /-- `op` = 0b010, format TYP: the STREAM type byte (R100) -/
  | ftParse (t : Byte)
  /-- `op` = 0b011, format FLG: `t[2]` off, `t[1]` len, `t[0]` fin (R102) -/
  | ftBuild (off len fin : Bool)
  /-- `op` = 0b100, format FRM: type byte, offset, and the length the host resolved (R104) -/
  | frameCheck (t : Byte) (a b : Word)
  /-- `op` = 0b101, format SID: the stream ID (R107) -/
  | sidClass (a : Word)
  /-- `op` = 0b110: selects no operation, reads no other port (R73) -/
  | reserved6
  /-- `op` = 0b111: selects no operation, reads no other port (R73) -/
  | reserved7
  deriving DecidableEq, Repr

end Sys2Proof
end

