-- ==== Sys2Proof/WellFormed.lean ====
section
/-! DEFINITION. Which terms of `Instr` are an operation of VLICORE. Every operand value of every operation is admitted: an
operand that is out of range has a fixed error response (R74), and "No input value is \"reserved\" except the two operation
codes" (R75). So the one check is that the code is not reserved (log entry 16). What a written request must satisfy is
`Sys2Proof.Machine.Asm.wellFormed`. -/

namespace Sys2Proof

/-- `true` for the six operations of R3 and R51, `false` for the two reserved codes (R73, R75). -/
def Instr.wellFormed : Instr → Bool
  | .vliDecode _ _ => true
  | .vliEncode _ => true
  | .ftParse _ => true
  | .ftBuild _ _ _ => true
  | .frameCheck _ _ _ => true
  | .sidClass _ => true
  | .reserved6 => false
  | .reserved7 => false

end Sys2Proof
end

