-- ==== Sys2Proof/Decode.lean ====
section
/-! DEFINITION. From the input ports to the operation and back (R50 to R53, R78), the opcode table as data, and the packed
form of a request that spec/opcode_table.json's bit numbers need (R50 gives no packing order: log entry 4). -/

namespace Sys2Proof

/-! ### The decoder of requests -/

/-- R78: the decoder "reads `op[2:0]` and nothing else to pick the operation". Each arm then takes the ports and bits that
the format of R52 lists; what it does not list is dropped (R53). Total: each of the eight values of `op` selects exactly one
row of R51. -/
def decode (q : Request) : Instr :=
  match q.op with
  | 0b000#3 => .vliDecode q.a q.n
  | 0b001#3 => .vliEncode q.a
  | 0b010#3 => .ftParse q.t
  | 0b011#3 => .ftBuild (q.t.getLsbD 2) (q.t.getLsbD 1) (q.t.getLsbD 0)
  | 0b100#3 => .frameCheck q.t q.a q.b
  | 0b101#3 => .sidClass q.a
  | 0b110#3 => .reserved6
  | 0b111#3 => .reserved7

/-! ### The encoder -/

/-- `{0b00000, off, len, fin}` on `t` (R76, FT_BUILD). -/
def flagPort (off len fin : Bool) : Byte :=
  0#5 ++ BitVec.ofBool off ++ BitVec.ofBool len ++ BitVec.ofBool fin

/-- The request of an operation, written from R51, R52 and R76; every port the format does not name is 0 (R76). -/
def encode : Instr → Request
  | .vliDecode a n => { Request.zero with op := 0b000#3, a := a, n := n }
  | .vliEncode a => { Request.zero with op := 0b001#3, a := a }
  | .ftParse t => { Request.zero with op := 0b010#3, t := t }
  | .ftBuild off len fin => { Request.zero with op := 0b011#3, t := flagPort off len fin }
  | .frameCheck t a b => { Request.zero with op := 0b100#3, t := t, a := a, b := b }
  | .sidClass a => { Request.zero with op := 0b101#3, a := a }
  | .reserved6 => { Request.zero with op := 0b110#3 }
  | .reserved7 => { Request.zero with op := 0b111#3 }

/-! ### Formats and the opcode table -/

/-- The formats of R52, and `none` for the reserved codes (R51). -/
inductive Format where
  | dec | val | typ | flg | frm | sid | none
  deriving DecidableEq, Repr

/-- The input bits an operation of each format reads, as a request with a 1 in every bit read (R52). `op` is read by all. For
SID, R52 lists `a[1:0]`; for FLG, `t[2:0]`. -/
def Format.reads : Format → Request
  | .dec => { Request.zero with op := 0b111#3, a := BitVec.allOnes 64, n := BitVec.allOnes 4 }
  | .val => { Request.zero with op := 0b111#3, a := BitVec.allOnes 64 }
  | .typ => { Request.zero with op := 0b111#3, t := BitVec.allOnes 8 }
  | .flg => { Request.zero with op := 0b111#3, t := 0b00000111#8 }
  | .frm => { op := 0b111#3, a := BitVec.allOnes 64, b := BitVec.allOnes 64, n := 0#4, t := BitVec.allOnes 8 }
  | .sid => { Request.zero with op := 0b111#3, a := 0b11#64 }
  | .none => { Request.zero with op := 0b111#3 }

/-- Bitwise and, port by port: with `Format.reads`, what is left of a request when the unread bits are cleared. -/
def Request.mask (m q : Request) : Request :=
  ⟨q.op &&& m.op, q.a &&& m.a, q.b &&& m.b, q.n &&& m.n, q.t &&& m.t⟩

/-- One row of spec/opcode_table.json: `match` and `mask` over `op[2:0]`. -/
structure OpRow where
  mnemonic : String
  format : Format
  pattern : BitVec 3
  mask : BitVec 3
  deriving DecidableEq, Repr

/-- spec/opcode_table.json and R51, row for row. -/
def opTable : List OpRow :=
  [⟨"VLI_DECODE", .dec, 0b000#3, 0b111#3⟩,
   ⟨"VLI_ENCODE", .val, 0b001#3, 0b111#3⟩,
   ⟨"FT_PARSE", .typ, 0b010#3, 0b111#3⟩,
   ⟨"FT_BUILD", .flg, 0b011#3, 0b111#3⟩,
   ⟨"FRAME_CHECK", .frm, 0b100#3, 0b111#3⟩,
   ⟨"SID_CLASS", .sid, 0b101#3, 0b111#3⟩,
   ⟨"RESERVED_6", .none, 0b110#3, 0b111#3⟩,
   ⟨"RESERVED_7", .none, 0b111#3, 0b111#3⟩]

/-- Whether a row of the table is selected by an operation code. -/
def OpRow.selects (r : OpRow) (op : BitVec 3) : Bool := op &&& r.mask == r.pattern

/-- The table's name of an operation. -/
def Instr.mnemonic : Instr → String
  | .vliDecode _ _ => "VLI_DECODE"
  | .vliEncode _ => "VLI_ENCODE"
  | .ftParse _ => "FT_PARSE"
  | .ftBuild _ _ _ => "FT_BUILD"
  | .frameCheck _ _ _ => "FRAME_CHECK"
  | .sidClass _ => "SID_CLASS"
  | .reserved6 => "RESERVED_6"
  | .reserved7 => "RESERVED_7"

/-- The format of an operation (R51). -/
def Instr.format : Instr → Format
  | .vliDecode _ _ => .dec
  | .vliEncode _ => .val
  | .ftParse _ => .typ
  | .ftBuild _ _ _ => .flg
  | .frameCheck _ _ _ => .frm
  | .sidClass _ => .sid
  | .reserved6 => .none
  | .reserved7 => .none

/-! ### The packed form

R50 counts "143 bits in all" and gives no packing order. The model packs the ports in R50's own order from bit 0 up: `op` on
2..0 (as spec/opcode_table.json numbers it), `a` on 66..3, `b` on 130..67, `n` on 134..131, `t` on 142..135. DESIGN CHOICE,
log entry 4. No instruction's meaning uses the packed form. -/

/-- The packed form of a request. -/
def Request.toBits (q : Request) : Nat :=
  q.op.toNat + q.a.toNat * 2 ^ 3 + q.b.toNat * 2 ^ 67 + q.n.toNat * 2 ^ 131 + q.t.toNat * 2 ^ 135

/-- The request whose packed form is `w`, for `w` below 2^143; of a wider word, the request of its low 143 bits (DESIGN CHOICE,
log entry 15). -/
def Request.ofBits (w : Nat) : Request :=
  ⟨BitVec.ofNat 3 w, BitVec.ofNat 64 (w / 2 ^ 3), BitVec.ofNat 64 (w / 2 ^ 67), BitVec.ofNat 4 (w / 2 ^ 131),
   BitVec.ofNat 8 (w / 2 ^ 135)⟩

/-- Why a packed word is no request. -/
inductive DecodeError where
  /-- the word has a bit above the 143 that R50 gives a request (log entry 15) -/
  | widerThanARequest
  deriving DecidableEq, Repr

/-- The decoder on packed words: total, and it rejects by name. -/
def decodeWord (w : Nat) : Except DecodeError Instr :=
  if w < 2 ^ 143 then .ok (decode (Request.ofBits w)) else .error .widerThanARequest

/-- The packed word of an operation. -/
def encodeWord (i : Instr) : Nat := (encode i).toBits

/-- The operation the decoder reads from the low `nbits` bits of `w`, every bit above them 0; none where it rejects. -/
def decodeTableWord (nbits w : Nat) : Option Instr :=
  match decodeWord (w % 2 ^ nbits) with
  | .ok i => some i
  | .error _ => none

end Sys2Proof
end

