-- ==== Sys2Proof/Machine/State.lean ====
section
/-! DEFINITION. State: the value on every port, and the host's list of requests with its index and observation.

VLICORE itself "retains no state from one request to the next" (R20). What a run needs is held here as plain data: the input
ports (R28), the output ports (R29), and what the HOST keeps: the finite list of requests it presents, the index of the next
one (R22, D25), and the responses it has collected (R157). -/

namespace Sys2Proof.Machine

/-- The value of the output ports (R29, R54). -/
@[ext] structure Response where
  /-- outcome code: 0 for success, otherwise the error kind (R71) -/
  err : BitVec 3
  /-- which InvalidFrameType failure: 0 marker bit unset, 1 value out of range (R72) -/
  ftw : BitVec 1
  /-- the result bus -/
  y : Word
  /-- the width in bytes -/
  m : BitVec 4
  /-- the width class, equal to the two-bit selector of the first wire byte -/
  wc : BitVec 2
  /-- `f[2]` OFF, `f[1]` LEN, `f[0]` FIN -/
  f : BitVec 3
  /-- the initiator bit -/
  si : BitVec 1
  /-- the direction bit -/
  sd : BitVec 1
  deriving DecidableEq, Repr

/-- Every output 0: what R57 drives wherever R55 and R56 give no value. -/
def Response.zero : Response := ⟨0#3, 0#1, 0#64, 0#4, 0#2, 0#3, 0#1, 0#1⟩

/-- The outcome kinds of R71. -/
inductive ErrKind where
  | ok
  /-- "VLI byte-length outside {1,2,4,8}" -/
  | invalidLength
  /-- "declared/supplied length disagrees with the width the prefix encodes" -/
  | lengthMismatch
  /-- "value exceeds 2^62−1 on encode" -/
  | valueOutOfRange
  /-- "marker bit unset or byte outside `0x08..0x0F`" -/
  | invalidFrameType
  /-- "`offset + length` exceeds 2^62−1" -/
  | offsetOverflow
  /-- "`op` is reserved (rule R73); the spec's own kind, not in the source" -/
  | illegalOp
  deriving DecidableEq, Repr

/-- The faults of the model. `step` answers none: "No run can fault or get stuck inside VLICORE, because `eval` is total"
(R157). The one constructor is RECORDED in `State.recorded`. -/
inductive Fault where
  /-- U1: "the model records a fault naming the request". Recorded by RESERVED_6 and RESERVED_7 beside their response (R73).
  `index` is the request's place in the host's list. The run goes on, as the spec gives the response: UNSAFE where a reader
  expects a claim about a program with a reserved code to be unprovable (log entry 5); `SafeRun` is the claim that none is
  recorded. -/
  | illegalOp (index : Nat) (request : Request)
  deriving DecidableEq, Repr

/-- Why the model gives no next state. -/
inductive Refusal where
  /-- raised by an arm of `exec` for an instruction without a meaning yet; safe. No arm is left so. -/
  | notModelled (mnemonic : String)
  /-- raised by `step` when the host's list has no request at its index: the run has ended (R157; log entry 6); safe -/
  | runEnded
  /-- raised by `sampleOutputs`, never by `step`, when the host samples before `T_SETTLE` (R154, U3; log entry 7); safe -/
  | notSettled
  deriving DecidableEq, Repr

structure State where
  /-- the input ports, as the host drives them now (R28) -/
  inp : Request
  /-- the output ports (R29) -/
  out : Response
  /-- the host's finite list of requests (R22, R157, D25) -/
  program : List Request
  /-- the host's index of the next request: it "advances by one per request, does not wrap" (R22) -/
  index : Nat
  /-- the observation: one response per request presented so far, in order (R157) -/
  responses : List Response
  /-- the faults the model records, in order (U1) -/
  recorded : List Fault
  deriving DecidableEq, Repr

/-- After power-up, before the first request. The output ports are `eval` of the present inputs (R150, R152); the inputs are
all 0 (DESIGN CHOICE, log entry 2), which is VLI_DECODE with `n` = 0, so `err` = 1. The host holds no program yet
(log entry 3). -/
def State.reset : State where
  inp := Request.zero
  out := { Response.zero with err := 1#3 }
  program := []
  index := 0
  responses := []
  recorded := []

end Sys2Proof.Machine
end

