-- ==== Sys2Proof/Machine/Operands.lean ====
section
/-! DEFINITION. The operand forms of R52 as slices of the ports (R10, R11), and the width table of R25. -/

namespace Sys2Proof.Machine

/-- The largest VLI value, 2^62 − 1 (R8). -/
def vliMax : Nat := 2 ^ 62 - 1

/-! ### The width table (R25) -/

/-- The width in bytes a two-bit selector names: `L = 2^p` (R58). -/
def widthBytes (p : BitVec 2) : Nat := 2 ^ p.toNat

/-- The usable bits of an L-byte VLI: `8L − 2` (R58). -/
def usableBits (L : Nat) : Nat := 8 * L - 2

/-! ### Format DEC -/

/-- The selector of left-justified wire bytes: bits 7:6 of wire byte 0, that is `a[63:62]` (R38). -/
def selector (a : Word) : BitVec 2 := a.extractLsb' 62 2

/-- A declared length VLI_DECODE takes: 1, 2, 4 or 8 (R80). -/
def legalLength (n : BitVec 4) : Bool := n == 1#4 || n == 2#4 || n == 4#4 || n == 8#4

/-- The value bits of an L-byte VLI on a port: `zext_64(a[61 : 64 − 8·L])` (R80, R59). -/
def valueBits (a : Word) (L : Nat) : Word := (a.extractLsb' (64 - 8 * L) (usableBits L)).setWidth 64

/-! ### Format VAL -/

/-- The class of the smallest width whose usable bits hold `v` (R63, R85, R86). -/
def minWidthClass (v : Nat) : BitVec 2 :=
  if v < 2 ^ 6 then 0#2
  else if v < 2 ^ 14 then 1#2
  else if v < 2 ^ 30 then 2#2
  else 3#2

/-- The big-endian word of `v` in the width of class `p`, its selector in the top two bits: `p · 2^(8L − 2) + v` (R85). -/
def wireWord (p : BitVec 2) (v : Nat) : Nat := p.toNat * 2 ^ usableBits (widthBytes p) + v

/-- An L-byte big-endian word on a port, left-justified: `word · 2^(64 − 8L)` (R38, R85). -/
def leftJustify (L word : Nat) : Word := BitVec.ofNat 64 (word * 2 ^ (64 - 8 * L))

/-! ### Format FRM -/

/-- The effective offset: `a` when OFF is set, "absent ⇒ offset implicitly 0" otherwise (R104, R105). -/
def effectiveOffset (t : Byte) (a : Word) : Word := if t.getLsbD 2 then a else 0#64

/-! ### Format SID -/

/-- Bit 0 of the stream ID: the initiator (R70). -/
def initiatorBit (a : Word) : BitVec 1 := a.extractLsb' 0 1

/-- Bit 1 of the stream ID: the direction (R70; C1 and D22 leave only the names of its values in conflict, log entry 11). -/
def directionBit (a : Word) : BitVec 1 := a.extractLsb' 1 1

end Sys2Proof.Machine
end

