-- ==== Sys2Proof/Machine/Flags.lean ====
section
/-! DEFINITION. The flags of the STREAM type byte: their check, unpacking and packing (R65 to R67, R72). VLICORE has no
condition codes (R23); these flags live on the ports only. -/

namespace Sys2Proof.Machine

/-- The check of a type byte, in the order of R133: `some ftw` says it is invalid and why (R72, R100), `none` that it lies in
0x08..0x0F. -/
def typeFailure (t : Byte) : Option (BitVec 1) :=
  if t.getLsbD 3 = false then some 0#1
  else if t.extractLsb' 4 4 ≠ 0#4 then some 1#1
  else none

/-- `{OFF, LEN, FIN}` of a type byte (R65, R100). -/
def frameFlags (t : Byte) : BitVec 3 := t.extractLsb' 0 3

/-- `0x08 | (off ? 0x04 : 0) | (len ? 0x02 : 0) | (fin ? 0x01 : 0)` (R67). -/
def packType (off len fin : Bool) : Byte :=
  0x08#8 ||| (if off then 0x04#8 else 0#8) ||| (if len then 0x02#8 else 0#8) ||| (if fin then 0x01#8 else 0#8)

end Sys2Proof.Machine
end

