-- ==== Sys2Proof/Machine/Ops.lean ====
section
/-! DEFINITION. The shared operations: raising an error kind, presenting a request, answering it, recording a reserved code,
and sampling the outputs. VLICORE has no memory and no register (R20, R26), so there are no others. -/

namespace Sys2Proof.Machine

/-! ### Errors: what R13 and R130 call `raise` -/

/-- The `err` code of each outcome (R71). -/
def ErrKind.code : ErrKind → BitVec 3
  | .ok => 0#3
  | .invalidLength => 1#3
  | .lengthMismatch => 2#3
  | .valueOutOfRange => 3#3
  | .invalidFrameType => 4#3
  | .offsetOverflow => 5#3
  | .illegalOp => 7#3

/-- `raise E`: `err` carries the code of `E`, `ftw` the sub-reason for InvalidFrameType and 0 for every other kind, and every
other output is 0 (R13, R56, R130). Nothing is saved, there is no handler and nothing to return from (R130, R137). -/
def raise (e : ErrKind) (ftw : BitVec 1) : Response :=
  { Response.zero with err := e.code, ftw := if e = .invalidFrameType then ftw else 0#1 }

/-! ### The host's side of a request -/

/-- The request the host presents next: the one at its index, if the list has one (R22, D25). -/
def nextRequest (s : State) : Option Request := s.program[s.index]?

/-- The host drives the input ports with a request (R27, R28). -/
def present (q : Request) (s : State) : State := { s with inp := q }

/-- VLICORE drives the response and the host samples it: the outputs carry it, it joins the observation (R157), and the
host's index advances by one (R22). -/
def answer (r : Response) (s : State) : State :=
  { s with out := r, responses := s.responses ++ [r], index := s.index + 1 }

/-- A request with a reserved `op`: IllegalOp is driven (R73), and a fault naming the request on the ports is recorded
(U1; log entry 5). -/
def answerIllegal (s : State) : State :=
  { answer (raise .illegalOp 0#1) s with recorded := s.recorded ++ [.illegalOp s.index s.inp] }

/-- Put a request at a place of the host's list; places before it that did not exist yet hold the zero request, which is not
presented by that. For `State.withFetchWord`. -/
def storeRequest : List Request → Nat → Request → List Request
  | [], 0, q => [q]
  | [], k + 1, q => Request.zero :: storeRequest [] k q
  | _ :: l, 0, q => q :: l
  | r :: l, k + 1, q => r :: storeRequest l k q

/-! ### Settling -/

/-- The host reads the output ports `waited` after the last input change. It "must sample no earlier than `T_SETTLE` after
the last input change" (R154); an earlier sample is no observation of the model and is refused by name (U3; log entry 7).
`step` takes a request as one atomic step, so it never samples early. -/
def sampleOutputs (waited : Nat) (s : State) : Except Refusal Response :=
  if Config.tSettle ≤ waited then .ok s.out else .error .notSettled

end Sys2Proof.Machine
end

