-- ==== Sys2Proof/Machine/Reserved.lean ====
section
/-! DEFINITION. The two reserved operation codes (R73). The spec gives their response, so they run; the fault that U1 asks a
model to record is recorded in State, naming the request (log entry 5). -/

namespace Sys2Proof.Machine

/-- `op` = 0b110. -/
def execReserved6 (s : State) : Host.Outcome State Fault Refusal := .next (answerIllegal s)

/-- `op` = 0b111. -/
def execReserved7 (s : State) : Host.Outcome State Fault Refusal := .next (answerIllegal s)

end Sys2Proof.Machine
end

