-- ==== Sys2Proof/Machine/StreamFrame.lean ====
section
/-! DEFINITION. The STREAM frame type model: FT_PARSE (R100), FT_BUILD (R102), FRAME_CHECK (R104), SID_CLASS (R107). -/

namespace Sys2Proof.Machine

/-- The response to FT_PARSE (R100). -/
def ftParse (t : Byte) : Response :=
  match typeFailure t with
  | some ftw => raise .invalidFrameType ftw
  | none => { Response.zero with err := ErrKind.ok.code, f := frameFlags t }

/-- FT_PARSE. -/
def execFtParse (t : Byte) (s : State) : Host.Outcome State Fault Refusal :=
  .next (answer (ftParse t) s)

/-- The response to FT_BUILD (R102): no failure mode. -/
def ftBuild (off len fin : Bool) : Response :=
  { Response.zero with err := ErrKind.ok.code, y := (packType off len fin).setWidth 64 }

/-- FT_BUILD. -/
def execFtBuild (off len fin : Bool) (s : State) : Host.Outcome State Fault Refusal :=
  .next (answer (ftBuild off len fin) s)

/-- The response to FRAME_CHECK (R104): check (a), then check (c) on the exact sum of naturals, "no wrap-around". Checks (b)
and (d) need no hardware (R106). -/
def frameCheck (t : Byte) (a b : Word) : Response :=
  match typeFailure t with
  | some ftw => raise .invalidFrameType ftw
  | none =>
    if (effectiveOffset t a).toNat + b.toNat > vliMax then raise .offsetOverflow 0#1
    else { Response.zero with err := ErrKind.ok.code, f := frameFlags t, y := effectiveOffset t a }

/-- FRAME_CHECK. -/
def execFrameCheck (t : Byte) (a b : Word) (s : State) : Host.Outcome State Fault Refusal :=
  .next (answer (frameCheck t a b) s)

/-- The response to SID_CLASS (R107): no failure mode, and `a[63:2]` is not read (R109). -/
def sidClass (a : Word) : Response :=
  { Response.zero with err := ErrKind.ok.code, si := initiatorBit a, sd := directionBit a }

/-- SID_CLASS. -/
def execSidClass (a : Word) (s : State) : Host.Outcome State Fault Refusal :=
  .next (answer (sidClass a) s)

end Sys2Proof.Machine
end

