-- ==== Sys2Proof/Machine/VliCodec.lean ====
section
/-! DEFINITION. The VLI codec: VLI_DECODE (R80) and VLI_ENCODE (R85). -/

namespace Sys2Proof.Machine

/-- The response to VLI_DECODE (R80): the length is checked before the selector (R133). -/
def vliDecode (a : Word) (n : BitVec 4) : Response :=
  if legalLength n = false then raise .invalidLength 0#1
  else if widthBytes (selector a) ≠ n.toNat then raise .lengthMismatch 0#1
  else { Response.zero with err := ErrKind.ok.code, y := valueBits a n.toNat, m := n, wc := selector a }

/-- VLI_DECODE. -/
def execVliDecode (a : Word) (n : BitVec 4) (s : State) : Host.Outcome State Fault Refusal :=
  .next (answer (vliDecode a n) s)

/-- The response to VLI_ENCODE (R85). The width is the least that holds the value (R63). -/
def vliEncode (a : Word) : Response :=
  if a.toNat > vliMax then raise .valueOutOfRange 0#1
  else
    let p := minWidthClass a.toNat
    { Response.zero with
      err := ErrKind.ok.code
      y := leftJustify (widthBytes p) (wireWord p a.toNat)
      m := BitVec.ofNat 4 (widthBytes p)
      wc := p }

/-- VLI_ENCODE. -/
def execVliEncode (a : Word) (s : State) : Host.Outcome State Fault Refusal :=
  .next (answer (vliEncode a) s)

end Sys2Proof.Machine
end

