-- ==== Sys2Proof/Machine/Dispatch.lean ====
section
/-! DEFINITION. One arm per operation, each a direct call of its meaning. -/

namespace Sys2Proof.Machine

def exec (i : Instr) (s : State) : Host.Outcome State Fault Refusal :=
  match i with
  | .vliDecode a n => Sys2Proof.Machine.execVliDecode a n s
  | .vliEncode a => Sys2Proof.Machine.execVliEncode a s
  | .ftParse t => Sys2Proof.Machine.execFtParse t s
  | .ftBuild off len fin => Sys2Proof.Machine.execFtBuild off len fin s
  | .frameCheck t a b => Sys2Proof.Machine.execFrameCheck t a b s
  | .sidClass a => Sys2Proof.Machine.execSidClass a s
  | .reserved6 => Sys2Proof.Machine.execReserved6 s
  | .reserved7 => Sys2Proof.Machine.execReserved7 s

end Sys2Proof.Machine
end

