-- ==== Sys2Proof/Machine/Step.lean ====
section
/-! DEFINITION. One step is one request (R27, R30): the host presents the request at its index, VLICORE answers it, the host
samples the response. It is atomic (R154). -/

namespace Sys2Proof.Machine

/-- R22, R30, R157. Where the host's list has no request at its index the run has ended (log entry 6). -/
def step (s : State) : Host.Outcome State Fault Refusal :=
  match nextRequest s with
  | some q => exec (decode q) (present q s)
  | none => .refused .runEnded

/-- `s` with the request packed in the low `nbits` bits of `w` (log entry 4) as the host's next request. This stands for the
host's choice of what it presents, the only way a program comes to run (log entry 3). R50 gives a request 143 bits and says
nothing of a wider word: here the bits above 142 are dropped and the request of the others is placed, since a State cannot
reject, while the decoder on packed words rejects such a word by name. DESIGN CHOICE, log entry 15. -/
def State.withFetchWord (s : State) (nbits w : Nat) : State :=
  { s with program := storeRequest s.program s.index (Request.ofBits (w % 2 ^ nbits)) }

end Sys2Proof.Machine
end

