-- ==== Sys2Proof/Machine/Eval.lean ====
section
/-! DEFINITION. `eval`, the total function from a request to its response that R30 says VLICORE is. -/

namespace Sys2Proof.Machine

/-- The response to a decoded request. -/
def respond : Instr → Response
  | .vliDecode a n => vliDecode a n
  | .vliEncode a => vliEncode a
  | .ftParse t => ftParse t
  | .ftBuild off len fin => ftBuild off len fin
  | .frameCheck t a b => frameCheck t a b
  | .sidClass a => sidClass a
  | .reserved6 => raise .illegalOp 0#1
  | .reserved7 => raise .illegalOp 0#1

/-- `eval(q)` of R30: "defined for every value of every input port". -/
def eval (q : Request) : Response := respond (decode q)

end Sys2Proof.Machine
end

