-- ==== Sys2Proof/Machine/Wire.lean ====
section
/-! DEFINITION. Wire byte sequences (R12, R36), the byte lanes of a port (R38), and the two idioms by which a host moves bytes
between a packet and the ports (R60, R77, R156). -/

namespace Sys2Proof.Machine

/-- `BE(B)`: the big-endian value of a byte sequence (R12). -/
def bigEndian : List Byte → Nat
  | [] => 0
  | b :: bs => b.toNat * 256 ^ bs.length + bigEndian bs

/-- The L bytes of a number, most significant first (R36). -/
def bytesOf : (L : Nat) → (word : Nat) → List Byte
  | 0, _ => []
  | L + 1, word => BitVec.ofNat 8 (word / 256 ^ L) :: bytesOf L word

/-- Wire byte k of a port: bits `[63 − 8k : 56 − 8k]` (R38). -/
def lane (k : Nat) (w : Word) : Byte := w.extractLsb' (56 - 8 * k) 8

/-- At most eight bytes on a port, byte 0 in lane 0, the lanes after the last byte 0 (R38, R76). -/
def portOf (bytes : List Byte) : Word := leftJustify (bytes.take 8).length (bigEndian (bytes.take 8))

/-- The VLI of class `p` that carries `v`, as its bytes on the wire (R58, R59). -/
def vliBytes (p : BitVec 2) (v : Nat) : List Byte := bytesOf (widthBytes p) (wireWord p v)

/-- All legal encodings of a value, shortest first: one for each width whose usable bits hold it (R62, R64). -/
def vliEncodings (v : Nat) : List (List Byte) :=
  ([0#2, 1#2, 2#2, 3#2].filter fun p => decide (v < 2 ^ usableBits (widthBytes p))).map fun p => vliBytes p v

/-- "Peek the width": the declared length a host takes from wire byte 0, `n = 2^(B0 >> 6)` (R60, R77). -/
def peekWidth (b0 : Byte) : BitVec 4 := BitVec.ofNat 4 (2 ^ (b0.toNat / 64))

/-- What a host sends of an encoder's response: "only the first `m` bytes of `y`" (R156). -/
def sentBytes (r : Response) : List Byte := (List.range r.m.toNat).map fun k => lane k r.y

/-- The request by which a host decodes a VLI it received: the bytes in their lanes, the declared length (R76, R156). -/
def decodeRequest (bytes : List Byte) (n : BitVec 4) : Request :=
  { Request.zero with op := 0b000#3, a := portOf bytes, n := n }

end Sys2Proof.Machine
end

