-- ==== Sys2Proof/Machine/Assembler.lean ====
section
/-! DEFINITION. The request syntax of R76, as a term: the numbers a person writes, the check that they are in the ranges R76
gives, and the request they stand for. Reading the characters is left out (log entry 13). -/

namespace Sys2Proof.Machine

/-- One line of R76's table each; `<hexbytes>` is the list of bytes its digits spell. -/
inductive Asm where
  | vliDecode (bytes : List Byte) (n : Nat)
  | vliEncode (v : Nat)
  | ftParse (byte : Nat)
  | ftBuild (off len fin : Nat)
  | frameCheck (byte offset length : Nat)
  | sidClass (s : Nat)
  | illegal (op : Nat)
  deriving DecidableEq, Repr

/-- The ranges of R76: 2 to 16 hex digits are 1 to 8 bytes, `<n>` is 0 to 15, values are below 2^64, type bytes below 2^8,
flags 0 or 1, `ILLEGAL` takes 6 or 7. "The byte count need not equal `<n>`." -/
def Asm.wellFormed : Asm → Bool
  | .vliDecode bytes n => decide (1 ≤ bytes.length ∧ bytes.length ≤ 8 ∧ n ≤ 15)
  | .vliEncode v => decide (v < 2 ^ 64)
  | .ftParse byte => decide (byte < 2 ^ 8)
  | .ftBuild off len fin => decide (off ≤ 1 ∧ len ≤ 1 ∧ fin ≤ 1)
  | .frameCheck byte offset length => decide (byte < 2 ^ 8 ∧ offset < 2 ^ 64 ∧ length < 2 ^ 64)
  | .sidClass s => decide (s < 2 ^ 64)
  | .illegal op => decide (op = 6 ∨ op = 7)

/-- The request a line stands for; "Ports the syntax does not name are 0" (R76). -/
def Asm.toRequest : Asm → Request
  | .vliDecode bytes n => decodeRequest bytes (BitVec.ofNat 4 n)
  | .vliEncode v => { Request.zero with op := 0b001#3, a := BitVec.ofNat 64 v }
  | .ftParse byte => { Request.zero with op := 0b010#3, t := BitVec.ofNat 8 byte }
  | .ftBuild off len fin => { Request.zero with op := 0b011#3, t := BitVec.ofNat 8 (off * 4 + len * 2 + fin) }
  | .frameCheck byte offset length =>
    { Request.zero with
      op := 0b100#3, t := BitVec.ofNat 8 byte, a := BitVec.ofNat 64 offset, b := BitVec.ofNat 64 length }
  | .sidClass s => { Request.zero with op := 0b101#3, a := BitVec.ofNat 64 s }
  | .illegal op => { Request.zero with op := BitVec.ofNat 3 op }

end Sys2Proof.Machine
end

