-- ==== Sys2Proof/Machine/FrameWalk.lean ====
section
/-! DEFINITION. The wire layout of a STREAM frame (R37, R68), and the host routines VLI and WALK of 95_test_vectors.md part 3
that take one apart with VLICORE's responses. The host, not VLICORE, walks the layout (R37), so no step uses this file
(log entry 17). -/

namespace Sys2Proof.Machine

/-- `[type:1][stream_id:VLI][offset:VLI][length:VLI][data]`; "OFF/LEN absent fields are simply omitted from the byte stream"
(R37; C2 gives the order). -/
def frameBytes (t : Byte) (sid offset length data : List Byte) : List Byte :=
  t :: (sid ++ (if t.getLsbD 2 then offset else []) ++ (if t.getLsbD 1 then length else []) ++ data)

/-- What WALK stops with. -/
inductive WalkResult where
  /-- "stop with r": the first response that carries an error -/
  | rejected (r : Response)
  /-- "stop with frame (sid, si, sd, r.y, len, fl, data)" -/
  | frame (sid : Word) (si sd : BitVec 1) (offset : Word) (length : Nat) (flags : BitVec 3) (data : List Byte)
  deriving DecidableEq, Repr

/-- VLI(P, c) on the bytes from the cursor on: peek the width, give VLI_DECODE the bytes actually present, and move on. With no
byte left the count is 0, whatever the peeked byte. -/
def walkVli (rest : List Byte) : Response × List Byte :=
  let w := match rest with
    | [] => 0
    | b0 :: _ => 2 ^ (b0.toNat / 64)
  let k := min w rest.length
  (eval (decodeRequest (rest.take k) (BitVec.ofNat 4 k)), rest.drop k)

/-- The last lines of WALK: FRAME_CHECK with the resolved length, and the frame. The host "computes that count and drives it on
`b`" (R105), and no rule says what it drives when the count does not fit the 64 bits of `b`: here it drives 2^64 − 1, the largest
value `b` can hold, so that check (c) fails as it does for the count itself. DESIGN CHOICE, log entry 17. -/
def walkCheck (t : Byte) (sid : Word) (flags : BitVec 3) (offset : Word) (length : Nat) (rest : List Byte) : WalkResult :=
  let class_ := eval (encode (.sidClass sid))
  let r := eval (encode (.frameCheck t offset (BitVec.ofNat 64 (min length (2 ^ 64 - 1)))))
  if r.err ≠ 0#3 then .rejected r
  else .frame sid class_.si class_.sd r.y length flags (rest.take length)

/-- WALK from the length field on: the length VLI when LEN is set, otherwise the remaining bytes, "no length VLI consumed". -/
def walkLength (t : Byte) (sid : Word) (flags : BitVec 3) (offset : Word) (rest : List Byte) : WalkResult :=
  if flags.getLsbD 1 then
    let v := walkVli rest
    if v.1.err ≠ 0#3 then .rejected v.1 else walkCheck t sid flags offset v.1.y.toNat v.2
  else walkCheck t sid flags offset rest.length rest

/-- WALK from the offset field on. -/
def walkOffset (t : Byte) (sid : Word) (flags : BitVec 3) (rest : List Byte) : WalkResult :=
  if flags.getLsbD 2 then
    let v := walkVli rest
    if v.1.err ≠ 0#3 then .rejected v.1 else walkLength t sid flags v.1.y v.2
  else walkLength t sid flags 0#64 rest

/-- WALK(P) on a packet whose first byte is `t`. -/
def walk (t : Byte) (rest : List Byte) : WalkResult :=
  let r := eval (encode (.ftParse t))
  if r.err ≠ 0#3 then .rejected r
  else
    let v := walkVli rest
    if v.1.err ≠ 0#3 then .rejected v.1 else walkOffset t v.1.y r.f v.2

end Sys2Proof.Machine
end

