-- ==== Sys2Proof/Machine/Platform.lean ====
section
/-! DEFINITION. Several instances (R141, D24): `N_INSTANCES` copies of VLICORE side by side. R9 says that the model takes the
number as an argument: it is `n` here. Each instance stands with the host task that drives it (log entry 8). -/

namespace Sys2Proof.Machine

/-- `n` instances. "Instances share no state and have no identifier" (R141): the place in the vector is the platform's. -/
structure Platform (n : Nat) where
  copies : Vector State n
  deriving DecidableEq, Repr

/-- The platform right after power-up: every copy is. -/
def Platform.reset (n : Nat) : Platform n := ⟨Vector.replicate n State.reset⟩

/-- Copy `k` takes one request; no other copy is touched, since "No inter-instance signal exists" (R141). -/
def Platform.step {n : Nat} (k : Fin n) (p : Platform n) : Host.Outcome (Platform n) Fault Refusal :=
  match Sys2Proof.Machine.step p.copies[k] with
  | .next t => .next ⟨p.copies.set k.val t k.isLt⟩
  | .fault r => .fault r
  | .refused r => .refused r

end Sys2Proof.Machine
end

