-- ==== Sys2Proof/Safety.lean ====
section
/-! DEFINITION. What holds of every state a run reaches, and what counts as a safe run. -/

namespace Sys2Proof.Machine

/-- R30, R150, R152: the outputs are `eval` of the present inputs. -/
def OutputsFollowInputs (s : State) : Prop := s.out = eval s.inp

/-- R22, R157: the index has not passed the end of the host's list, and the observation is the response to each request
presented so far, in order. -/
def ObservationMatches (s : State) : Prop :=
  s.index ≤ s.program.length ∧ s.responses = (s.program.take s.index).map eval

/-- U1: the faults of a list of requests, the first of them presented at index `k`: one for each reserved `op`, naming its
request. -/
def faultsFrom : Nat → List Request → List Fault
  | _, [] => []
  | k, q :: qs => if 6 ≤ q.op.toNat then .illegalOp k q :: faultsFrom (k + 1) qs else faultsFrom (k + 1) qs

/-- U1: the recorded faults are those of the requests presented so far. -/
def FaultsMatch (s : State) : Prop := s.recorded = faultsFrom 0 (s.program.take s.index)

/-- The invariant of the machine. -/
structure Inv (s : State) : Prop where
  outputs : OutputsFollowInputs s
  observation : ObservationMatches s
  faults : FaultsMatch s

/-- A run that presented no reserved operation code (U1, R73). -/
def SafeRun (s : State) : Prop := s.recorded = []

end Sys2Proof.Machine
end

