-- ==== Sys2Proof/Certificates/Slice0/Obligations.lean ====
section
/-! DEFINITION. The statements for the provers. A response is written out as its eight outputs in the order of R54:
`⟨err, ftw, y, m, wc, f, si, sd⟩`. -/

open Sys2Proof Sys2Proof.Machine

/-- The whole of what a request changes when its response is `r`, written as a record so that it can be read off: the outputs,
the observation (R157) and the index (R22). Every other field is the old one: this is the frame. -/
def Sys2Proof.Machine.State.afterResponse (s : State) (r : Response) : State :=
  { s with out := r, responses := s.responses ++ [r], index := s.index + 1 }

/-- The state of a host that has a list of requests and has presented none of them yet (R157). -/
def Sys2Proof.Machine.State.AtStart (s : State) : Prop := s.index = 0 ∧ s.responses = []

/-- The smallest width of R63: "1 byte for v<64, 2 for v<16384, 4 for v<2^30, 8 otherwise". -/
def Sys2Proof.Machine.leastWidth (v : Nat) : Nat :=
  if v < 64 then 1 else if v < 16384 then 2 else if v < 2 ^ 30 then 4 else 8

/-! ### The decoder and the encoder -/

/-- R51: each operation code selects its operation, with the ports its format lists. -/
def Obligations.OpcodeSelectsOperation : Prop :=
  ∀ (a b : Word) (n : BitVec 4) (t : Byte),
    decode ⟨0b000#3, a, b, n, t⟩ = .vliDecode a n ∧
    decode ⟨0b001#3, a, b, n, t⟩ = .vliEncode a ∧
    decode ⟨0b010#3, a, b, n, t⟩ = .ftParse t ∧
    decode ⟨0b011#3, a, b, n, t⟩ = .ftBuild (t.getLsbD 2) (t.getLsbD 1) (t.getLsbD 0) ∧
    decode ⟨0b100#3, a, b, n, t⟩ = .frameCheck t a b ∧
    decode ⟨0b101#3, a, b, n, t⟩ = .sidClass a ∧
    decode ⟨0b110#3, a, b, n, t⟩ = .reserved6 ∧
    decode ⟨0b111#3, a, b, n, t⟩ = .reserved7

/-- R78: the map has no gap and no overlap, does not depend on the operands, and the decoder follows it. -/
def Obligations.OpcodeMapHasOneRowPerCode : Prop :=
  ∀ q : Request, ∃ r : OpRow,
    opTable.filter (fun row => row.selects q.op) = [r] ∧ r.mask = 0b111#3 ∧
    (decode q).mnemonic = r.mnemonic ∧ (decode q).format = r.format

/-- Packed words written out bit by bit: `t` on 142..135, `n` on 134..131, `b` on 130..67, `a` on 66..3, `op` on 2..0. The
packing is the model's own (log entry 4). -/
def Obligations.SampleWordsDecode : Prop :=
  decodeTableWord 143 (0x02 * 2 ^ 131 + 0x7bbd000000000000 * 2 ^ 3 + 0b000) = some (.vliDecode 0x7bbd000000000000#64 2#4) ∧
  decodeTableWord 143 (0x40 * 2 ^ 3 + 0b001) = some (.vliEncode 0x40#64) ∧
  decodeTableWord 143 (0x0e * 2 ^ 135 + 0b010) = some (.ftParse 0x0e#8) ∧
  decodeTableWord 143 (0x06 * 2 ^ 135 + 0b011) = some (.ftBuild true true false) ∧
  decodeTableWord 143 (0x0e * 2 ^ 135 + 0x05 * 2 ^ 67 + 0x25 * 2 ^ 3 + 0b100) = some (.frameCheck 0x0e#8 0x25#64 0x05#64) ∧
  decodeTableWord 143 (0x04 * 2 ^ 3 + 0b101) = some (.sidClass 0x04#64) ∧
  decodeTableWord 8 0b110 = some .reserved6 ∧
  decodeTableWord 8 0b111 = some .reserved7

/-- Decoding what the encoder writes gives the operation back, on the ports and in the packed form, for every operation and
every operand. -/
def Obligations.DecodeInvertsEncode : Prop :=
  ∀ i : Instr, decode (encode i) = i ∧ decodeWord (encodeWord i) = .ok i

/-- Nothing an operation reads is lost by decoding: encoding again keeps every bit the format reads, and the response. -/
def Obligations.EncodeDecodeKeepsReadBits : Prop :=
  ∀ q : Request,
    (decode q).format.reads.mask (encode (decode q)) = (decode q).format.reads.mask q ∧
    eval (encode (decode q)) = eval q

/-- The packed form is one to one with the words below 2^143, and the decoder rejects exactly the others, by name. The packing
is the model's own (log entries 4 and 15). -/
def Obligations.PackedFormIsExact : Prop :=
  (∀ q : Request, q.toBits < 2 ^ 143 ∧ Request.ofBits q.toBits = q) ∧
  (∀ w : Nat, w < 2 ^ 143 → (Request.ofBits w).toBits = w) ∧
  (∀ w : Nat, decodeWord w = .error .widerThanARequest ↔ 2 ^ 143 ≤ w)

/-- R53: two requests that agree on the bits their format reads get the same response. -/
def Obligations.ResponseIgnoresUnreadBits : Prop :=
  ∀ q q' : Request, (decode q).format.reads.mask q = (decode q).format.reads.mask q' → eval q = eval q'

/-- R76: what each written line puts on the ports; a port not named is 0, and the hex bytes fill the lanes from 0 on. -/
def Obligations.WrittenRequestsFillTheirPorts : Prop :=
  ∀ l : Asm, l.wellFormed = true →
    match l with
    | .vliDecode bytes n =>
      l.toRequest.op = 0b000#3 ∧ l.toRequest.n.toNat = n ∧ l.toRequest.b = 0#64 ∧ l.toRequest.t = 0#8 ∧
      (∀ k < bytes.length, some (lane k l.toRequest.a) = bytes[k]?) ∧
      (∀ k < 8, bytes.length ≤ k → lane k l.toRequest.a = 0#8)
    | .vliEncode v =>
      l.toRequest.op = 0b001#3 ∧ l.toRequest.a.toNat = v ∧ l.toRequest.b = 0#64 ∧ l.toRequest.n = 0#4 ∧ l.toRequest.t = 0#8
    | .ftParse byte =>
      l.toRequest.op = 0b010#3 ∧ l.toRequest.t.toNat = byte ∧ l.toRequest.a = 0#64 ∧ l.toRequest.b = 0#64 ∧
      l.toRequest.n = 0#4
    | .ftBuild off len fin =>
      l.toRequest.op = 0b011#3 ∧ l.toRequest.t.extractLsb 7 3 = 0#5 ∧
      (l.toRequest.t.extractLsb 2 2).toNat = off ∧ (l.toRequest.t.extractLsb 1 1).toNat = len ∧
      (l.toRequest.t.extractLsb 0 0).toNat = fin ∧
      l.toRequest.a = 0#64 ∧ l.toRequest.b = 0#64 ∧ l.toRequest.n = 0#4
    | .frameCheck byte offset length =>
      l.toRequest.op = 0b100#3 ∧ l.toRequest.t.toNat = byte ∧ l.toRequest.a.toNat = offset ∧
      l.toRequest.b.toNat = length ∧ l.toRequest.n = 0#4
    | .sidClass sid =>
      l.toRequest.op = 0b101#3 ∧ l.toRequest.a.toNat = sid ∧ l.toRequest.b = 0#64 ∧ l.toRequest.n = 0#4 ∧
      l.toRequest.t = 0#8
    | .illegal op =>
      l.toRequest.op.toNat = op ∧ l.toRequest.a = 0#64 ∧ l.toRequest.b = 0#64 ∧ l.toRequest.n = 0#4 ∧ l.toRequest.t = 0#8

/-! ### A request is one step -/

/-- When the host's list has the request `q` at its index, the step puts `q` on the input ports and runs the operation `q`
decodes to. -/
def Obligations.StepRunsDecodedRequest : Prop :=
  ∀ (s : State) (q : Request), s.program[s.index]? = some q → step s = exec (decode q) { s with inp := q }

/-- R30: for each request, VLICORE drives `eval` of that request, whatever the state before it. -/
def Obligations.StepDrivesEval : Prop :=
  ∀ (s : State) (q : Request), s.program[s.index]? = some q →
    ∃ t, step s = .next t ∧ t.out = eval q ∧ t.inp = q ∧ t.index = s.index + 1 ∧
      t.responses = s.responses ++ [eval q] ∧ t.program = s.program

/-- R20: no state passes from one request to the next. Whatever two machines did before, the same request on the ports gives
the same outputs. -/
def Obligations.NoStateBetweenRequests : Prop :=
  ∀ (s s' : State) (q : Request), s.program[s.index]? = some q → s'.program[s'.index]? = some q →
    ∃ t t', step s = .next t ∧ step s' = .next t' ∧ t.out = t'.out ∧ t.inp = t'.inp

/-- R131: what a request that raises an error does is drive its response. The first clause is all that its step changes: the
ports carry the request and `eval` of it, the host observes that response and moves on, and only for a reserved code a fault is
recorded too, which is the model's choice (log entry 5). The second is about any later request, however far on and whatever
stands between: it is answered by `eval` of itself, and the observation and the recorded faults are those of the requests
presented. -/
def Obligations.ErrorLeavesNextResponseAlone : Prop :=
  ∀ (s : State) (q : Request), s.program[s.index]? = some q → (eval q).err ≠ 0#3 →
    ∃ t, step s = .next t ∧
      t = { s with
        inp := q, out := eval q, responses := s.responses ++ [eval q], index := s.index + 1,
        recorded := s.recorded ++ if 6 ≤ q.op.toNat then [.illegalOp s.index q] else [] } ∧
      ∀ (k : Nat) (q' : Request), s.program[s.index + 1 + k]? = some q' →
        ∃ u, Host.Core.run Sys2Proof.core (k + 1) t = .next u ∧ u.inp = q' ∧ u.out = eval q' ∧
          u.index = s.index + 1 + (k + 1) ∧ u.program = s.program ∧
          u.responses = s.responses ++ eval q :: ((s.program.drop (s.index + 1)).take (k + 1)).map eval ∧
          u.recorded = t.recorded ++ faultsFrom (s.index + 1) ((s.program.drop (s.index + 1)).take (k + 1))

/-- A step never faults, and gives no next state only where the host's list has no further request; the name of that end is
the model's (log entry 6). -/
def Obligations.StepStopsOnlyAtEndOfRun : Prop :=
  ∀ s : State,
    (s.index < s.program.length → ∃ t, step s = .next t) ∧
    (s.program.length ≤ s.index → step s = .refused .runEnded)

/-- R157: a run over any finite list of requests ends after the response to the last one, and its observation is the list of
responses, one per request, in order. That the ended run's next step is refused is the model's way to end (log entry 6) and is
not part of this statement. -/
def Obligations.RunObservesEveryResponseInOrder : Prop :=
  ∀ s : State, s.AtStart →
    ∃ t, Host.Core.run Sys2Proof.core s.program.length s = .next t ∧
      t.responses = s.program.map eval ∧ t.index = s.program.length ∧ t.program = s.program

/-- Any order of the same requests gives each request the same response. -/
def Obligations.OrderOfRequestsDoesNotMatter : Prop :=
  ∀ s s' : State, s.AtStart → s'.AtStart → s.program.Perm s'.program →
    ∃ t t', Host.Core.run Sys2Proof.core s.program.length s = .next t ∧
      Host.Core.run Sys2Proof.core s'.program.length s' = .next t' ∧
      (s.program.zip t.responses).Perm (s'.program.zip t'.responses)

/-! ### Each operation's response -/

/-- R80. -/
def Obligations.VliDecodeResponse : Prop :=
  (∀ q : Request, q.op = 0b000#3 → decode q = .vliDecode q.a q.n) ∧
  ∀ (a : Word) (n : BitVec 4) (s : State),
    (n ≠ 1#4 ∧ n ≠ 2#4 ∧ n ≠ 4#4 ∧ n ≠ 8#4 →
      exec (.vliDecode a n) s = .next (s.afterResponse ⟨1#3, 0#1, 0#64, 0#4, 0#2, 0#3, 0#1, 0#1⟩)) ∧
    (n = 1#4 ∨ n = 2#4 ∨ n = 4#4 ∨ n = 8#4 → 2 ^ (a.extractLsb 63 62).toNat ≠ n.toNat →
      exec (.vliDecode a n) s = .next (s.afterResponse ⟨2#3, 0#1, 0#64, 0#4, 0#2, 0#3, 0#1, 0#1⟩)) ∧
    (n = 1#4 → a.extractLsb 63 62 = 0b00#2 → exec (.vliDecode a n) s =
      .next (s.afterResponse ⟨0#3, 0#1, (a.extractLsb 61 56).setWidth 64, 1#4, 0b00#2, 0#3, 0#1, 0#1⟩)) ∧
    (n = 2#4 → a.extractLsb 63 62 = 0b01#2 → exec (.vliDecode a n) s =
      .next (s.afterResponse ⟨0#3, 0#1, (a.extractLsb 61 48).setWidth 64, 2#4, 0b01#2, 0#3, 0#1, 0#1⟩)) ∧
    (n = 4#4 → a.extractLsb 63 62 = 0b10#2 → exec (.vliDecode a n) s =
      .next (s.afterResponse ⟨0#3, 0#1, (a.extractLsb 61 32).setWidth 64, 4#4, 0b10#2, 0#3, 0#1, 0#1⟩)) ∧
    (n = 8#4 → a.extractLsb 63 62 = 0b11#2 → exec (.vliDecode a n) s =
      .next (s.afterResponse ⟨0#3, 0#1, (a.extractLsb 61 0).setWidth 64, 8#4, 0b11#2, 0#3, 0#1, 0#1⟩))

/-- R85: `p · 2^(8L − 2) + v`, moved up by `64 − 8L` bits, in each of the four widths. -/
def Obligations.VliEncodeResponse : Prop :=
  (∀ q : Request, q.op = 0b001#3 → decode q = .vliEncode q.a) ∧
  ∀ (v : Word) (s : State),
    (v.toNat > 2 ^ 62 - 1 →
      exec (.vliEncode v) s = .next (s.afterResponse ⟨3#3, 0#1, 0#64, 0#4, 0#2, 0#3, 0#1, 0#1⟩)) ∧
    (v.toNat < 2 ^ 6 → exec (.vliEncode v) s = .next (s.afterResponse
      ⟨0#3, 0#1, BitVec.ofNat 64 ((0 * 2 ^ 6 + v.toNat) * 2 ^ 56), 1#4, 0#2, 0#3, 0#1, 0#1⟩)) ∧
    (2 ^ 6 ≤ v.toNat → v.toNat < 2 ^ 14 → exec (.vliEncode v) s = .next (s.afterResponse
      ⟨0#3, 0#1, BitVec.ofNat 64 ((1 * 2 ^ 14 + v.toNat) * 2 ^ 48), 2#4, 1#2, 0#3, 0#1, 0#1⟩)) ∧
    (2 ^ 14 ≤ v.toNat → v.toNat < 2 ^ 30 → exec (.vliEncode v) s = .next (s.afterResponse
      ⟨0#3, 0#1, BitVec.ofNat 64 ((2 * 2 ^ 30 + v.toNat) * 2 ^ 32), 4#4, 2#2, 0#3, 0#1, 0#1⟩)) ∧
    (2 ^ 30 ≤ v.toNat → v.toNat ≤ 2 ^ 62 - 1 → exec (.vliEncode v) s = .next (s.afterResponse
      ⟨0#3, 0#1, BitVec.ofNat 64 ((3 * 2 ^ 62 + v.toNat) * 2 ^ 0), 8#4, 3#2, 0#3, 0#1, 0#1⟩))

/-- R100. -/
def Obligations.FtParseResponse : Prop :=
  (∀ q : Request, q.op = 0b010#3 → decode q = .ftParse q.t) ∧
  ∀ (t : Byte) (s : State),
    (t.getLsbD 3 = false →
      exec (.ftParse t) s = .next (s.afterResponse ⟨4#3, 0#1, 0#64, 0#4, 0#2, 0#3, 0#1, 0#1⟩)) ∧
    (t.getLsbD 3 = true → t.extractLsb 7 4 ≠ 0#4 →
      exec (.ftParse t) s = .next (s.afterResponse ⟨4#3, 1#1, 0#64, 0#4, 0#2, 0#3, 0#1, 0#1⟩)) ∧
    (t.getLsbD 3 = true → t.extractLsb 7 4 = 0#4 →
      exec (.ftParse t) s = .next (s.afterResponse ⟨0#3, 0#1, 0#64, 0#4, 0#2, t.extractLsb 2 0, 0#1, 0#1⟩))

/-- R102: `y` is `0x08 | off·4 | len·2 | fin`, equal to `{0b00001, t[2:0]}`. -/
def Obligations.FtBuildResponse : Prop :=
  (∀ q : Request, q.op = 0b011#3 →
    decode q = .ftBuild (q.t.getLsbD 2) (q.t.getLsbD 1) (q.t.getLsbD 0) ∧
    (eval q).y = (0b00001#5 ++ q.t.extractLsb 2 0).setWidth 64) ∧
  ∀ (off len fin : Bool) (s : State),
    exec (.ftBuild off len fin) s = .next (s.afterResponse
      ⟨0#3, 0#1, BitVec.ofNat 64 (0x08 + off.toNat * 4 + len.toNat * 2 + fin.toNat), 0#4, 0#2, 0#3, 0#1, 0#1⟩)

/-- R104: check (a), then check (c) on the exact sum. -/
def Obligations.FrameCheckResponse : Prop :=
  (∀ q : Request, q.op = 0b100#3 → decode q = .frameCheck q.t q.a q.b) ∧
  ∀ (t : Byte) (a b : Word) (s : State) (off : Nat), off = (if t.getLsbD 2 then a.toNat else 0) →
    (t.getLsbD 3 = false →
      exec (.frameCheck t a b) s = .next (s.afterResponse ⟨4#3, 0#1, 0#64, 0#4, 0#2, 0#3, 0#1, 0#1⟩)) ∧
    (t.getLsbD 3 = true → t.extractLsb 7 4 ≠ 0#4 →
      exec (.frameCheck t a b) s = .next (s.afterResponse ⟨4#3, 1#1, 0#64, 0#4, 0#2, 0#3, 0#1, 0#1⟩)) ∧
    (t.getLsbD 3 = true → t.extractLsb 7 4 = 0#4 → off + b.toNat > 2 ^ 62 - 1 →
      exec (.frameCheck t a b) s = .next (s.afterResponse ⟨5#3, 0#1, 0#64, 0#4, 0#2, 0#3, 0#1, 0#1⟩)) ∧
    (t.getLsbD 3 = true → t.extractLsb 7 4 = 0#4 → off + b.toNat ≤ 2 ^ 62 - 1 →
      exec (.frameCheck t a b) s = .next (s.afterResponse
        ⟨0#3, 0#1, BitVec.ofNat 64 off, 0#4, 0#2, t.extractLsb 2 0, 0#1, 0#1⟩))

/-- R107: the bits, not the labels of C1 (log entry 11). -/
def Obligations.SidClassResponse : Prop :=
  (∀ q : Request, q.op = 0b101#3 → decode q = .sidClass q.a) ∧
  ∀ (a : Word) (s : State),
    exec (.sidClass a) s = .next (s.afterResponse
      ⟨0#3, 0#1, 0#64, 0#4, 0#2, 0#3, BitVec.ofBool (a.getLsbD 0), BitVec.ofBool (a.getLsbD 1)⟩)

/-- The two reserved codes drive IllegalOp with every other output 0, and the run goes on with a recorded fault that names the
request on the ports: running on and recording are the model's reading of R73 and U1 (log entry 5). -/
def Obligations.ReservedCodesDriveIllegalOp : Prop :=
  (∀ q : Request, q.op = 0b110#3 → decode q = .reserved6) ∧
  (∀ q : Request, q.op = 0b111#3 → decode q = .reserved7) ∧
  ∀ (s t : State),
    t = { s.afterResponse ⟨7#3, 0#1, 0#64, 0#4, 0#2, 0#3, 0#1, 0#1⟩ with
          recorded := s.recorded ++ [.illegalOp s.index s.inp] } →
    exec .reserved6 s = .next t ∧ exec .reserved7 s = .next t

/-- Every operation completes, in every state and on every operand, and this is all it changes: the outputs, one response more
in the observation (R157), the index by one; and, for the two reserved codes and no other, one recorded fault more. Recording is
the model's choice (log entry 5), as is calling the reserved codes not well-formed (log entry 16). -/
def Obligations.EveryOperationCompletesWithItsFrame : Prop :=
  ∀ (i : Instr) (s : State), ∃ t, exec i s = .next t ∧
    t.inp = s.inp ∧ t.program = s.program ∧ t.index = s.index + 1 ∧
    t.responses = s.responses ++ [t.out] ∧ t.out = respond i ∧
    t.recorded = s.recorded ++ if i.wellFormed = true then [] else [.illegalOp s.index s.inp]

/-! ### Errors and unused outputs -/

/-- R56: with an error, `ftw` is the sub-reason for InvalidFrameType and 0 otherwise, and every other output is 0. -/
def Obligations.ErrorResponseIsOtherwiseZero : Prop :=
  ∀ q : Request, (eval q).err ≠ 0#3 →
    (eval q).y = 0#64 ∧ (eval q).m = 0#4 ∧ (eval q).wc = 0#2 ∧ (eval q).f = 0#3 ∧ (eval q).si = 0#1 ∧
    (eval q).sd = 0#1 ∧ ((eval q).err ≠ 4#3 → (eval q).ftw = 0#1) ∧
    ((eval q).err = 4#3 →
      ((eval q).ftw = 0#1 ↔ q.t.getLsbD 3 = false) ∧
      ((eval q).ftw = 1#1 ↔ q.t.getLsbD 3 = true ∧ q.t.extractLsb 7 4 ≠ 0#4))

/-- R132: each error kind's code, the operations that raise it, its cause, and the extra information of InvalidFrameType; code 6
is never driven. -/
def Obligations.ErrorKindsAndCauses : Prop :=
  ∀ q : Request,
    ((eval q).err = 1#3 ↔ q.op = 0b000#3 ∧ ¬ (q.n = 1#4 ∨ q.n = 2#4 ∨ q.n = 4#4 ∨ q.n = 8#4)) ∧
    ((eval q).err = 2#3 ↔ q.op = 0b000#3 ∧ (q.n = 1#4 ∨ q.n = 2#4 ∨ q.n = 4#4 ∨ q.n = 8#4) ∧
      2 ^ (q.a.extractLsb 63 62).toNat ≠ q.n.toNat) ∧
    ((eval q).err = 3#3 ↔ q.op = 0b001#3 ∧ q.a.toNat > 2 ^ 62 - 1) ∧
    ((eval q).err = 4#3 ↔ (q.op = 0b010#3 ∨ q.op = 0b100#3) ∧ ¬ (0x08 ≤ q.t.toNat ∧ q.t.toNat ≤ 0x0F)) ∧
    ((eval q).err = 5#3 ↔ q.op = 0b100#3 ∧ (0x08 ≤ q.t.toNat ∧ q.t.toNat ≤ 0x0F) ∧
      (if q.t.getLsbD 2 then q.a.toNat else 0) + q.b.toNat > 2 ^ 62 - 1) ∧
    ((eval q).err = 7#3 ↔ q.op = 0b110#3 ∨ q.op = 0b111#3) ∧
    (eval q).err ≠ 6#3 ∧
    ((eval q).err = 4#3 →
      ((eval q).ftw = 0#1 ↔ q.t.getLsbD 3 = false) ∧
      ((eval q).ftw = 1#1 ↔ q.t.getLsbD 3 = true ∧ q.t.extractLsb 7 4 ≠ 0#4))

/-- R55: on success, the outputs each operation names hold what it says, and the others are 0. `y` of VLI_DECODE is the
big-endian value of the declared bytes without the two prefix bits, `y` of VLI_ENCODE is the L-byte word with its prefix, moved
up to the top of the port, and `y[7:0]` of FT_BUILD is the type byte. -/
def Obligations.SuccessDrivesOnlyNamedOutputs : Prop :=
  ∀ q : Request, (eval q).err = 0#3 → (eval q).ftw = 0#1 ∧
    (q.op = 0b000#3 →
      (eval q).y.toNat = bigEndian ((List.range q.n.toNat).map fun k => lane k q.a) % 2 ^ (8 * q.n.toNat - 2) ∧
      (eval q).y.extractLsb 63 62 = 0#2 ∧ (eval q).m = q.n ∧ (eval q).wc = q.a.extractLsb 63 62 ∧
      (eval q).f = 0#3 ∧ (eval q).si = 0#1 ∧ (eval q).sd = 0#1) ∧
    (q.op = 0b001#3 →
      (eval q).y.toNat =
        ((eval q).wc.toNat * 2 ^ (8 * (eval q).m.toNat - 2) + q.a.toNat) * 2 ^ (64 - 8 * (eval q).m.toNat) ∧
      (eval q).m.toNat = leastWidth q.a.toNat ∧ (eval q).m.toNat = 2 ^ (eval q).wc.toNat ∧
      (eval q).wc = (eval q).y.extractLsb 63 62 ∧
      (eval q).f = 0#3 ∧ (eval q).si = 0#1 ∧ (eval q).sd = 0#1) ∧
    (q.op = 0b010#3 → (eval q).f = q.t.extractLsb 2 0 ∧ (eval q).y = 0#64 ∧ (eval q).m = 0#4 ∧ (eval q).wc = 0#2 ∧
      (eval q).si = 0#1 ∧ (eval q).sd = 0#1) ∧
    (q.op = 0b011#3 → (eval q).y.extractLsb 7 0 = 0b00001#5 ++ q.t.extractLsb 2 0 ∧ (eval q).y.extractLsb 63 8 = 0#56 ∧ (eval q).m = 0#4 ∧ (eval q).wc = 0#2 ∧ (eval q).f = 0#3 ∧
      (eval q).si = 0#1 ∧ (eval q).sd = 0#1) ∧
    (q.op = 0b100#3 → (eval q).y = (if q.t.getLsbD 2 then q.a else 0#64) ∧ (eval q).f = q.t.extractLsb 2 0 ∧
      (eval q).m = 0#4 ∧ (eval q).wc = 0#2 ∧ (eval q).si = 0#1 ∧ (eval q).sd = 0#1) ∧
    (q.op = 0b101#3 → (eval q).si = q.a.extractLsb 0 0 ∧ (eval q).sd = q.a.extractLsb 1 1 ∧ (eval q).y = 0#64 ∧
      (eval q).m = 0#4 ∧ (eval q).wc = 0#2 ∧ (eval q).f = 0#3)

/-! ### The VLI codec -/

/-- R25: the width table and the masks of the type byte. -/
def Obligations.WidthTableAndMasks : Prop :=
  (widthBytes 0b00#2 = 1 ∧ usableBits 1 = 6 ∧ 2 ^ usableBits 1 - 1 = 63) ∧
  (widthBytes 0b01#2 = 2 ∧ usableBits 2 = 14 ∧ 2 ^ usableBits 2 - 1 = 16383) ∧
  (widthBytes 0b10#2 = 4 ∧ usableBits 4 = 30 ∧ 2 ^ usableBits 4 - 1 = 1073741823) ∧
  (widthBytes 0b11#2 = 8 ∧ usableBits 8 = 62 ∧ 2 ^ usableBits 8 - 1 = 4611686018427387903) ∧
  packType false false false = 0x08#8 ∧
  (∀ len fin, packType true len fin = packType false len fin ||| 0x04#8) ∧
  (∀ off fin, packType off true fin = packType off false fin ||| 0x02#8) ∧
  (∀ off len, packType off len true = packType off len false ||| 0x01#8)

/-- R38: byte k stands on bits `[63 − 8k : 56 − 8k]`; a port as a number is `BE(B) · 2^(64 − 8L)` plus the bits in lanes L to 7;
the two selecting bits are always `[63:62]`; and a byte sequence placed on a port stands in its lanes. -/
def Obligations.PortHoldsBytesLeftJustified : Prop :=
  (∀ (a : Word) (k : Nat), k < 8 → (lane k a).toNat = a.toNat / 2 ^ (56 - 8 * k) % 256) ∧
  (∀ (a : Word) (L : Nat), L ≤ 8 →
    a.toNat = bigEndian ((List.range L).map fun k => lane k a) * 2 ^ (64 - 8 * L) + a.toNat % 2 ^ (64 - 8 * L)) ∧
  (∀ a : Word, (lane 0 a).extractLsb 7 6 = a.extractLsb 63 62) ∧
  (∀ bytes : List Byte, bytes.length ≤ 8 →
    (portOf bytes).toNat = bigEndian bytes * 2 ^ (64 - 8 * bytes.length) ∧
    (∀ k < bytes.length, some (lane k (portOf bytes)) = bytes[k]?))

/-- R81: the decoder reads only lanes 0 to n − 1 of `a`, and no bit of `a` when `n` is not legal. -/
def Obligations.DecoderReadsOnlyDeclaredLanes : Prop :=
  ∀ q q' : Request, q.op = 0b000#3 → q'.op = 0b000#3 → q.n = q'.n →
    ((q.n = 1#4 ∨ q.n = 2#4 ∨ q.n = 4#4 ∨ q.n = 8#4) → ∀ k < q.n.toNat, lane k q.a = lane k q'.a) →
    eval q = eval q'

/-- R61: a decode succeeds for exactly one declared length, the width that wire byte 0 implies. -/
def Obligations.OnlyTheImpliedWidthIsLegal : Prop :=
  ∀ q : Request, q.op = 0b000#3 → ((eval q).err = 0#3 ↔ q.n.toNat = 2 ^ ((lane 0 q.a).extractLsb 7 6).toNat)

/-- R59: the value of a VLI is the big-endian value of its bytes with the two top bits cleared. -/
def Obligations.DecodedValueIsBigEndianModulo : Prop :=
  ∀ (b0 : Byte) (bs : List Byte), (b0 :: bs).length = 2 ^ (b0.extractLsb 7 6).toNat →
    eval (decodeRequest (b0 :: bs) (BitVec.ofNat 4 (b0 :: bs).length)) =
      ⟨0#3, 0#1, BitVec.ofNat 64 (bigEndian (b0 :: bs) % 2 ^ (8 * (b0 :: bs).length - 2)),
        BitVec.ofNat 4 (b0 :: bs).length, b0.extractLsb 7 6, 0#3, 0#1, 0#1⟩

/-- R83: every width that holds a value decodes to it. -/
def Obligations.NonMinimalEncodingsDecode : Prop :=
  ∀ (p : BitVec 2) (v : Nat), v < 2 ^ (8 * 2 ^ p.toNat - 2) →
    (vliBytes p v).length = 2 ^ p.toNat ∧
    (eval (decodeRequest (vliBytes p v) (BitVec.ofNat 4 (2 ^ p.toNat)))).err = 0#3 ∧
    (eval (decodeRequest (vliBytes p v) (BitVec.ofNat 4 (2 ^ p.toNat)))).y.toNat = v

/-- R64: how many legal encodings a value has. The list of them has that many entries, each of another length; it holds every
byte sequence of at most eight bytes that decodes to the value, and nothing else; and exactly one is what VLI_ENCODE sends. -/
def Obligations.NumberOfEncodings : Prop :=
  ∀ v : Nat, v ≤ 2 ^ 62 - 1 →
    (vliEncodings v).length = (if v < 64 then 4 else if v < 16384 then 3 else if v < 2 ^ 30 then 2 else 1) ∧
    ((vliEncodings v).map List.length).Nodup ∧
    (∀ bytes ∈ vliEncodings v,
      (eval (decodeRequest bytes (BitVec.ofNat 4 bytes.length))).err = 0#3 ∧
      (eval (decodeRequest bytes (BitVec.ofNat 4 bytes.length))).y.toNat = v) ∧
    (∀ bytes : List Byte, bytes.length ≤ 8 →
      (eval (decodeRequest bytes (BitVec.ofNat 4 bytes.length))).err = 0#3 →
      (eval (decodeRequest bytes (BitVec.ofNat 4 bytes.length))).y.toNat = v → bytes ∈ vliEncodings v) ∧
    ((vliEncodings v).filter fun bytes => bytes == sentBytes (eval (encode (.vliEncode (BitVec.ofNat 64 v))))).length = 1

/-- R84: the range of a decoded value. -/
def Obligations.DecodedValueRange : Prop :=
  ∀ q : Request, q.op = 0b000#3 → (eval q).err ≠ 3#3 ∧
    ((eval q).err = 0#3 →
      (eval q).y.toNat ≤ 2 ^ 62 - 1 ∧ (eval q).y.extractLsb 63 62 = 0#2 ∧
      (eval q).y.toNat < 2 ^ (8 * 2 ^ (eval q).wc.toNat - 2))

/-- R86: the width class of an encoder's response is a priority test on the value bits. -/
def Obligations.EncoderWidthIsPriorityTest : Prop :=
  ∀ q : Request, q.op = 0b001#3 → q.a.extractLsb 63 62 = 0#2 →
    (eval q).err = 0#3 ∧
    (eval q).wc =
      (if q.a.extractLsb 61 30 ≠ 0#32 then 3#2
       else if q.a.extractLsb 29 14 ≠ 0#16 then 2#2
       else if q.a.extractLsb 13 6 ≠ 0#8 then 1#2 else 0#2)

/-- R87: the output bits of an encoder's response, width by width. -/
def Obligations.EncoderOutputBits : Prop :=
  ∀ q : Request, q.op = 0b001#3 → (eval q).err = 0#3 →
    (eval q).y.extractLsb 63 62 = (eval q).wc ∧
    (((eval q).m = 1#4 ∧ (eval q).wc = 0b00#2 ∧ (eval q).y.extractLsb 61 56 = q.a.extractLsb 5 0 ∧
        (eval q).y.extractLsb 55 0 = 0#56) ∨
     ((eval q).m = 2#4 ∧ (eval q).wc = 0b01#2 ∧ (eval q).y.extractLsb 61 48 = q.a.extractLsb 13 0 ∧
        (eval q).y.extractLsb 47 0 = 0#48) ∨
     ((eval q).m = 4#4 ∧ (eval q).wc = 0b10#2 ∧ (eval q).y.extractLsb 61 32 = q.a.extractLsb 29 0 ∧
        (eval q).y.extractLsb 31 0 = 0#32) ∨
     ((eval q).m = 8#4 ∧ (eval q).wc = 0b11#2 ∧ (eval q).y.extractLsb 61 0 = q.a.extractLsb 61 0))

/-- R88: decoding what the encoder gives, with the width it gives, gives the value back. -/
def Obligations.CodecRoundTrip : Prop :=
  ∀ (v : Word) (e : Response), v.toNat ≤ 2 ^ 62 - 1 → e = eval (encode (.vliEncode v)) →
    eval (encode (.vliDecode e.y e.m)) = ⟨0#3, 0#1, v, e.m, e.wc, 0#3, 0#1, 0#1⟩

/-- The round trip over the wire: a host sends the first `m` bytes of an encoder's response, another peeks the width in byte 0,
puts the bytes on their lanes and decodes the same value. -/
def Obligations.CodecRoundTripOverTheWire : Prop :=
  ∀ (v : Word) (e : Response), v.toNat ≤ 2 ^ 62 - 1 → e = eval (encode (.vliEncode v)) →
    ∃ b0 bs, sentBytes e = b0 :: bs ∧ (b0 :: bs).length = leastWidth v.toNat ∧ peekWidth b0 = e.m ∧
      eval (decodeRequest (b0 :: bs) (peekWidth b0)) = ⟨0#3, 0#1, v, e.m, e.wc, 0#3, 0#1, 0#1⟩

/-- R89: the encoder takes the smallest width, so encoding a decoded value again gives the original bytes if and only if they
were minimal. -/
def Obligations.EncodingIsCanonical : Prop :=
  (∀ v : Word, v.toNat ≤ 2 ^ 62 - 1 → (eval (encode (.vliEncode v))).m.toNat = leastWidth v.toNat) ∧
  ∀ (q : Request) (d e : Response), q.op = 0b000#3 → d = eval q → d.err = 0#3 → e = eval (encode (.vliEncode d.y)) →
    (sentBytes e = ((List.range q.n.toNat).map fun k => lane k q.a) ↔ q.n.toNat = leastWidth d.y.toNat)

/-! ### The STREAM frame type model -/

/-- R101: the bytes FT_PARSE accepts, and how many it rejects with each sub-reason. -/
def Obligations.FtParseAcceptanceSet : Prop :=
  (∀ t : Byte, (eval (encode (.ftParse t))).err = 0#3 ↔ 0x08 ≤ t.toNat ∧ t.toNat ≤ 0x0F) ∧
  ((List.range 256).filter fun t => (ftParse (BitVec.ofNat 8 t)).err != 0#3).length = 248 ∧
  ((List.range 256).filter fun t => (ftParse (BitVec.ofNat 8 t)).err != 0#3 && (ftParse (BitVec.ofNat 8 t)).ftw == 0#1
      && !(BitVec.ofNat 8 t).getLsbD 3).length = 128 ∧
  ((List.range 256).filter fun t => (ftParse (BitVec.ofNat 8 t)).err != 0#3 && (ftParse (BitVec.ofNat 8 t)).ftw == 1#1
      && (BitVec.ofNat 8 t).getLsbD 3 && (BitVec.ofNat 8 t).extractLsb 7 4 != 0#4).length = 120

/-- R103: FT_PARSE of what FT_BUILD gives is the three flags. -/
def Obligations.FlagSymmetry : Prop :=
  ∀ off len fin : Bool,
    eval (encode (.ftParse ((eval (encode (.ftBuild off len fin))).y.extractLsb 7 0))) =
      ⟨0#3, 0#1, 0#64, 0#4, 0#2, BitVec.ofBool off ++ BitVec.ofBool len ++ BitVec.ofBool fin, 0#1, 0#1⟩

/-- Check (a) of FRAME_CHECK is FT_PARSE: where FT_PARSE rejects a type byte FRAME_CHECK gives the same response, and where it
accepts, a FRAME_CHECK that succeeds gives the same flags. -/
def Obligations.FrameCheckAgreesWithFtParse : Prop :=
  ∀ (t : Byte) (a b : Word),
    ((eval (encode (.ftParse t))).err ≠ 0#3 → eval (encode (.frameCheck t a b)) = eval (encode (.ftParse t))) ∧
    ((eval (encode (.ftParse t))).err = 0#3 →
      ((eval (encode (.frameCheck t a b))).err = 0#3 ∧
        (eval (encode (.frameCheck t a b))).f = (eval (encode (.ftParse t))).f) ∨
      (eval (encode (.frameCheck t a b))).err = 5#3)

/-- R69 for the values that VLI_DECODE produces: a frame whose offset and length were both decoded is accepted exactly when
their sum is a 62-bit value, and then it ends within the stream's range. -/
def Obligations.DecodedFrameIsBounded : Prop :=
  ∀ (qo ql : Request) (t : Byte), qo.op = 0b000#3 → ql.op = 0b000#3 → (eval qo).err = 0#3 → (eval ql).err = 0#3 →
    0x08 ≤ t.toNat → t.toNat ≤ 0x0F → t.getLsbD 2 = true →
    ((eval (encode (.frameCheck t (eval qo).y (eval ql).y))).err = 0#3 ↔
      (eval qo).y.toNat + (eval ql).y.toNat ≤ 2 ^ 62 - 1) ∧
    ((eval (encode (.frameCheck t (eval qo).y (eval ql).y))).err ≠ 0#3 →
      (eval (encode (.frameCheck t (eval qo).y (eval ql).y))).err = 5#3)

/-- R108 and R109: SID_CLASS is a function of `a[1:0]` alone, and tells the four stream types apart. -/
def Obligations.StreamTypesByLowTwoBits : Prop :=
  (∀ a a' : Word, a.extractLsb 1 0 = a'.extractLsb 1 0 → eval (encode (.sidClass a)) = eval (encode (.sidClass a'))) ∧
  ∀ a : Word,
    (a.extractLsb 1 0 = 0b00#2 → (eval (encode (.sidClass a))).si = 0#1 ∧ (eval (encode (.sidClass a))).sd = 0#1) ∧
    (a.extractLsb 1 0 = 0b01#2 → (eval (encode (.sidClass a))).si = 1#1 ∧ (eval (encode (.sidClass a))).sd = 0#1) ∧
    (a.extractLsb 1 0 = 0b10#2 → (eval (encode (.sidClass a))).si = 0#1 ∧ (eval (encode (.sidClass a))).sd = 1#1) ∧
    (a.extractLsb 1 0 = 0b11#2 → (eval (encode (.sidClass a))).si = 1#1 ∧ (eval (encode (.sidClass a))).sd = 1#1)

/-- R37 through the whole codec: a host that walks a frame laid out on the wire, each field in any width that holds it, gets
back the stream ID, its two bits, the effective offset, the length, the flags and the data. A length that is on the wire is
the number of data bytes; one that is absent is resolved to the remaining bytes (R105). -/
def Obligations.FrameWalkInvertsLayout : Prop :=
  ∀ (t : Byte) (ps po pl : BitVec 2) (sid off : Nat) (data rest more : List Byte),
    0x08 ≤ t.toNat → t.toNat ≤ 0x0F →
    sid < 2 ^ (8 * 2 ^ ps.toNat - 2) → off < 2 ^ (8 * 2 ^ po.toNat - 2) → data.length < 2 ^ (8 * 2 ^ pl.toNat - 2) →
    (if t.getLsbD 2 then off else 0) + data.length ≤ 2 ^ 62 - 1 →
    (t.getLsbD 1 = false → more = []) →
    frameBytes t (vliBytes ps sid) (vliBytes po off) (vliBytes pl data.length) data = t :: rest →
    walk t (rest ++ more) =
      .frame (BitVec.ofNat 64 sid) (BitVec.ofNat 1 sid) (BitVec.ofNat 1 (sid / 2))
        (BitVec.ofNat 64 (if t.getLsbD 2 then off else 0)) data.length (t.extractLsb 2 0) data

/-! ### Invariants, power-up, settling and several instances -/

/-- Every step keeps the invariant: the outputs are `eval` of the inputs, the observation is the responses to the requests
presented so far, and the recorded faults are exactly the reserved codes among them (log entry 5). -/
def Obligations.StepKeepsInvariant : Prop :=
  ∀ s t : State, Inv s → step s = .next t → Inv t

/-- After power-up the invariant holds. The input values at that moment are the model's own (log entry 2), as are the host's
empty list and observation (log entry 3). -/
def Obligations.ResetMeetsInvariant : Prop := Inv State.reset

/-- After power-up the outputs are `eval` of the inputs, whatever the host drives, and the first request it presents is
answered by `eval`. -/
def Obligations.FirstRequestAfterPowerUpObeysTheRules : Prop :=
  State.reset.out = eval State.reset.inp ∧
  ∀ (q : Request) (qs : List Request), ∃ t,
    step { State.reset with program := q :: qs } = .next t ∧ t.out = eval q ∧ t.inp = q ∧ t.responses = [eval q]

/-- A sample no earlier than `T_SETTLE` sees `eval` of the present inputs; an earlier one is refused by name, the model's
treatment of U3 (log entry 7). -/
def Obligations.SettledSampleIsEvalOfInputs : Prop :=
  ∀ (s : State) (waited : Nat), OutputsFollowInputs s →
    sampleOutputs waited s = if Config.tSettle ≤ waited then .ok (eval s.inp) else .error .notSettled

/-- A run is safe exactly when no request presented so far had a reserved operation code. -/
def Obligations.SafeRunsPresentNoReservedCode : Prop :=
  ∀ s : State, Inv s → (SafeRun s ↔ ∀ q ∈ s.program.take s.index, q.op.toNat < 6)

/-- R141: a request to one instance never changes a response of another, so requests to two instances may be taken in either
order. -/
def Obligations.InstancesAreIndependent : Prop :=
  ∀ (n : Nat) (p : Platform n) (j k : Fin n), j ≠ k →
    (∀ p', Platform.step k p = .next p' → p'.copies[j] = p.copies[j]) ∧
    (∀ p₁ p₂ p₃ p₄, Platform.step j p = .next p₁ → Platform.step k p₁ = .next p₂ →
      Platform.step k p = .next p₃ → Platform.step j p₃ = .next p₄ → p₂ = p₄)

/-- An instance with a request waiting answers it by `eval`, whatever the other instances hold. -/
def Obligations.EachInstanceDrivesEval : Prop :=
  ∀ (n : Nat) (p : Platform n) (k : Fin n) (q : Request),
    p.copies[k].program[p.copies[k].index]? = some q →
    ∃ p', Platform.step k p = .next p' ∧ p'.copies[k].out = eval q ∧
      p'.copies[k].responses = p.copies[k].responses ++ [eval q]
end

