-- ==== Sys2Proof/Laws/State.lean ====
section
/-! SUPPORT. One lemma for each field and each update of State, and for each output of a raised error, all true by definition. -/

namespace Sys2Proof.Machine

/-! ### `present` -/

@[simp] theorem present_inp (q : Request) (s : State) : (present q s).inp = q := rfl
@[simp] theorem present_out (q : Request) (s : State) : (present q s).out = s.out := rfl
@[simp] theorem present_program (q : Request) (s : State) : (present q s).program = s.program := rfl
@[simp] theorem present_index (q : Request) (s : State) : (present q s).index = s.index := rfl
@[simp] theorem present_responses (q : Request) (s : State) : (present q s).responses = s.responses := rfl
@[simp] theorem present_recorded (q : Request) (s : State) : (present q s).recorded = s.recorded := rfl

/-! ### `answer` -/

@[simp] theorem answer_inp (r : Response) (s : State) : (answer r s).inp = s.inp := rfl
@[simp] theorem answer_out (r : Response) (s : State) : (answer r s).out = r := rfl
@[simp] theorem answer_program (r : Response) (s : State) : (answer r s).program = s.program := rfl
@[simp] theorem answer_index (r : Response) (s : State) : (answer r s).index = s.index + 1 := rfl
@[simp] theorem answer_responses (r : Response) (s : State) : (answer r s).responses = s.responses ++ [r] := rfl
@[simp] theorem answer_recorded (r : Response) (s : State) : (answer r s).recorded = s.recorded := rfl

/-! ### `answerIllegal` -/

@[simp] theorem answerIllegal_inp (s : State) : (answerIllegal s).inp = s.inp := rfl
@[simp] theorem answerIllegal_out (s : State) : (answerIllegal s).out = raise .illegalOp 0#1 := rfl
@[simp] theorem answerIllegal_program (s : State) : (answerIllegal s).program = s.program := rfl
@[simp] theorem answerIllegal_index (s : State) : (answerIllegal s).index = s.index + 1 := rfl
@[simp] theorem answerIllegal_responses (s : State) :
    (answerIllegal s).responses = s.responses ++ [raise .illegalOp 0#1] := rfl
@[simp] theorem answerIllegal_recorded (s : State) :
    (answerIllegal s).recorded = s.recorded ++ [.illegalOp s.index s.inp] := rfl

/-! ### `withFetchWord` -/

@[simp] theorem withFetchWord_inp (s : State) (k w : Nat) : (s.withFetchWord k w).inp = s.inp := rfl
@[simp] theorem withFetchWord_out (s : State) (k w : Nat) : (s.withFetchWord k w).out = s.out := rfl
@[simp] theorem withFetchWord_index (s : State) (k w : Nat) : (s.withFetchWord k w).index = s.index := rfl
@[simp] theorem withFetchWord_responses (s : State) (k w : Nat) : (s.withFetchWord k w).responses = s.responses := rfl
@[simp] theorem withFetchWord_recorded (s : State) (k w : Nat) : (s.withFetchWord k w).recorded = s.recorded := rfl
@[simp] theorem withFetchWord_program (s : State) (k w : Nat) :
    (s.withFetchWord k w).program = storeRequest s.program s.index (Request.ofBits (w % 2 ^ k)) := rfl

/-! ### `raise` -/

@[simp] theorem raise_err (e : ErrKind) (ftw : BitVec 1) : (raise e ftw).err = e.code := rfl
@[simp] theorem raise_ftw (e : ErrKind) (ftw : BitVec 1) :
    (raise e ftw).ftw = if e = .invalidFrameType then ftw else 0#1 := rfl
@[simp] theorem raise_y (e : ErrKind) (ftw : BitVec 1) : (raise e ftw).y = 0#64 := rfl
@[simp] theorem raise_m (e : ErrKind) (ftw : BitVec 1) : (raise e ftw).m = 0#4 := rfl
@[simp] theorem raise_wc (e : ErrKind) (ftw : BitVec 1) : (raise e ftw).wc = 0#2 := rfl
@[simp] theorem raise_f (e : ErrKind) (ftw : BitVec 1) : (raise e ftw).f = 0#3 := rfl
@[simp] theorem raise_si (e : ErrKind) (ftw : BitVec 1) : (raise e ftw).si = 0#1 := rfl
@[simp] theorem raise_sd (e : ErrKind) (ftw : BitVec 1) : (raise e ftw).sd = 0#1 := rfl

end Sys2Proof.Machine
end

