-- ==== Sys2Proof/Laws/Codec.lean ====
section
/-! SUPPORT. The slices of the ports as numbers, and every case of the codec's and the type byte's operations, each said once. -/

namespace Sys2Proof.Machine

/-! ### Slices as numbers -/

theorem selector_toNat (a : Word) : (selector a).toNat = a.toNat / 2 ^ 62 := by
  have := a.isLt
  simp only [selector, BitVec.extractLsb'_toNat, Nat.shiftRight_eq_div_pow]
  omega

theorem lane_toNat (k : Nat) (a : Word) : (lane k a).toNat = a.toNat / 2 ^ (56 - 8 * k) % 256 := by
  simp [lane, BitVec.extractLsb'_toNat, Nat.shiftRight_eq_div_pow]

/-- The value bits of an L-byte VLI, for the four widths and any other. -/
theorem valueBits_toNat (a : Word) (L : Nat) (h : L ≤ 8) :
    (valueBits a L).toNat = a.toNat / 2 ^ (64 - 8 * L) % 2 ^ (8 * L - 2) := by
  have h2 : a.toNat / 2 ^ (64 - 8 * L) % 2 ^ (8 * L - 2) < 2 ^ 64 :=
    Nat.lt_of_lt_of_le (Nat.mod_lt _ (Nat.two_pow_pos _)) (Nat.pow_le_pow_right (by omega) (by omega))
  simp only [valueBits, usableBits, BitVec.toNat_setWidth, BitVec.extractLsb'_toNat, Nat.shiftRight_eq_div_pow,
    Nat.mod_eq_of_lt h2]

/-- A word that fits its L bytes is left-justified without loss. -/
theorem leftJustify_toNat (L word : Nat) (hL : L ≤ 8) (hw : word < 2 ^ (8 * L)) :
    (leftJustify L word).toNat = word * 2 ^ (64 - 8 * L) := by
  have : word * 2 ^ (64 - 8 * L) < 2 ^ (8 * L) * 2 ^ (64 - 8 * L) := Nat.mul_lt_mul_of_pos_right hw (Nat.two_pow_pos _)
  rw [← Nat.pow_add, show 8 * L + (64 - 8 * L) = 64 by omega] at this
  rw [leftJustify, BitVec.toNat_ofNat, Nat.mod_eq_of_lt this]

theorem bytesOf_length (L w : Nat) : (bytesOf L w).length = L := by
  induction L with
  | zero => rfl
  | succ L ih => simp [bytesOf, ih]

/-- The big-endian value of the L bytes of a number is the number, to L bytes. -/
theorem bigEndian_bytesOf (L w : Nat) : bigEndian (bytesOf L w) = w % 256 ^ L := by
  induction L with
  | zero => simp [bytesOf, bigEndian, Nat.mod_one]
  | succ L ih =>
    simp only [bytesOf, bigEndian, bytesOf_length, ih, BitVec.toNat_ofNat]
    have := Nat.mod_mul (x := w) (a := 256 ^ L) (b := 256)
    rw [show 256 ^ (L + 1) = 256 ^ L * 256 from rfl, this, Nat.add_comm, Nat.mul_comm]

/-- The big-endian value of a byte sequence fits its bytes. -/
theorem bigEndian_lt (bs : List Byte) : bigEndian bs < 256 ^ bs.length := by
  induction bs with
  | nil => simp [bigEndian]
  | cons b bs ih =>
    have hb : b.toNat + 1 ≤ 256 := b.isLt
    have := Nat.mul_le_mul_right (256 ^ bs.length) hb
    simp only [bigEndian, List.length_cons, Nat.pow_succ]
    rw [Nat.add_mul] at this
    omega

theorem portOf_toNat (bs : List Byte) (h : bs.length ≤ 8) :
    (portOf bs).toNat = bigEndian bs * 2 ^ (64 - 8 * bs.length) := by
  rw [portOf, List.take_of_length_le h, leftJustify_toNat _ _ h]
  have := bigEndian_lt bs
  rwa [show (256 : Nat) = 2 ^ 8 from rfl, ← Nat.pow_mul] at this

/-! ### The cases of the codec -/

/-- Everything VLI_DECODE can answer. -/
theorem vliDecode_cases (a : Word) (n : BitVec 4) :
    (legalLength n = false ∧ vliDecode a n = raise .invalidLength 0#1) ∨
    (legalLength n = true ∧ widthBytes (selector a) ≠ n.toNat ∧ vliDecode a n = raise .lengthMismatch 0#1) ∨
    (legalLength n = true ∧ widthBytes (selector a) = n.toNat ∧
      vliDecode a n = ⟨0#3, 0#1, valueBits a n.toNat, n, selector a, 0#3, 0#1, 0#1⟩) := by
  by_cases h : legalLength n = true
  · by_cases hw : widthBytes (selector a) = n.toNat
    · exact .inr (.inr ⟨h, hw, by simp [vliDecode, h, hw, Response.zero, ErrKind.code]⟩)
    · exact .inr (.inl ⟨h, hw, by simp [vliDecode, h, hw]⟩)
  · exact .inl ⟨by simpa using h, by simp [vliDecode, h]⟩

/-- The four pairs of width and class a decode accepts. -/
theorem widthBytes_selector_cases (p : BitVec 2) :
    (p = 0#2 ∧ widthBytes p = 1) ∨ (p = 1#2 ∧ widthBytes p = 2) ∨ (p = 2#2 ∧ widthBytes p = 4) ∨
    (p = 3#2 ∧ widthBytes p = 8) := by
  revert p
  decide

/-- The ranges of R63. -/
theorem minWidthClass_cases (v : Nat) :
    (v < 2 ^ 6 ∧ minWidthClass v = 0#2) ∨ (2 ^ 6 ≤ v ∧ v < 2 ^ 14 ∧ minWidthClass v = 1#2) ∨
    (2 ^ 14 ≤ v ∧ v < 2 ^ 30 ∧ minWidthClass v = 2#2) ∨ (2 ^ 30 ≤ v ∧ minWidthClass v = 3#2) := by
  unfold minWidthClass
  split
  · exact .inl ⟨‹_›, rfl⟩
  · split
    · exact .inr (.inl ⟨by omega, ‹_›, rfl⟩)
    · split
      · exact .inr (.inr (.inl ⟨by omega, ‹_›, rfl⟩))
      · exact .inr (.inr (.inr ⟨by omega, rfl⟩))

/-- Everything VLI_ENCODE can answer. -/
theorem vliEncode_cases (a : Word) :
    (vliMax < a.toNat ∧ vliEncode a = raise .valueOutOfRange 0#1) ∨
    (a.toNat ≤ vliMax ∧ ∃ p, p = minWidthClass a.toNat ∧
      vliEncode a = ⟨0#3, 0#1, leftJustify (widthBytes p) (wireWord p a.toNat), BitVec.ofNat 4 (widthBytes p), p,
        0#3, 0#1, 0#1⟩) := by
  by_cases h : a.toNat > vliMax
  · exact .inl ⟨h, by simp [vliEncode, h]⟩
  · exact .inr ⟨by omega, _, rfl, by simp [vliEncode, h, Response.zero, ErrKind.code]⟩

/-! ### The cases of the type byte -/

/-- Everything the check of a type byte can answer. -/
theorem typeFailure_cases (t : Byte) :
    (t.getLsbD 3 = false ∧ typeFailure t = some 0#1) ∨
    (t.getLsbD 3 = true ∧ t.extractLsb' 4 4 ≠ 0#4 ∧ typeFailure t = some 1#1) ∨
    (t.getLsbD 3 = true ∧ t.extractLsb' 4 4 = 0#4 ∧ typeFailure t = none) := by
  by_cases h3 : t.getLsbD 3 = false
  · exact .inl ⟨h3, by rw [typeFailure, if_pos h3]⟩
  · by_cases h4 : t.extractLsb' 4 4 = 0#4
    · exact .inr (.inr ⟨by simpa using h3, h4, by rw [typeFailure, if_neg h3, if_neg (not_not.mpr h4)]⟩)
    · exact .inr (.inl ⟨by simpa using h3, h4, by rw [typeFailure, if_neg h3, if_pos h4]⟩)

/-- Everything FT_PARSE can answer. -/
theorem ftParse_cases (t : Byte) :
    (∃ ftw, typeFailure t = some ftw ∧ ftParse t = raise .invalidFrameType ftw) ∨
    (typeFailure t = none ∧ ftParse t = ⟨0#3, 0#1, 0#64, 0#4, 0#2, frameFlags t, 0#1, 0#1⟩) := by
  cases ht : typeFailure t with
  | some ftw => exact .inl ⟨ftw, rfl, by simp [ftParse, ht]⟩
  | none => exact .inr ⟨rfl, by simp [ftParse, ht, Response.zero, ErrKind.code]⟩

/-- All that FT_BUILD answers. -/
theorem ftBuild_eq (off len fin : Bool) :
    ftBuild off len fin = ⟨0#3, 0#1, (packType off len fin).setWidth 64, 0#4, 0#2, 0#3, 0#1, 0#1⟩ := rfl

/-- All that SID_CLASS answers. -/
theorem sidClass_eq (a : Word) :
    sidClass a = ⟨0#3, 0#1, 0#64, 0#4, 0#2, 0#3, initiatorBit a, directionBit a⟩ := rfl

/-- The two bits SID_CLASS reads, as numbers. -/
theorem sidBits_toNat (a : Word) :
    (initiatorBit a).toNat = a.toNat % 2 ∧ (directionBit a).toNat = a.toNat / 2 % 2 := by
  simp [initiatorBit, directionBit, BitVec.extractLsb'_toNat, Nat.shiftRight_eq_div_pow]

/-- Everything FRAME_CHECK can answer. -/
theorem frameCheck_cases (t : Byte) (a b : Word) :
    (∃ ftw, typeFailure t = some ftw ∧ frameCheck t a b = raise .invalidFrameType ftw) ∨
    (typeFailure t = none ∧ vliMax < (effectiveOffset t a).toNat + b.toNat ∧
      frameCheck t a b = raise .offsetOverflow 0#1) ∨
    (typeFailure t = none ∧ (effectiveOffset t a).toNat + b.toNat ≤ vliMax ∧
      frameCheck t a b = ⟨0#3, 0#1, effectiveOffset t a, 0#4, 0#2, frameFlags t, 0#1, 0#1⟩) := by
  cases ht : typeFailure t with
  | some ftw => exact .inl ⟨ftw, rfl, by simp [frameCheck, ht]⟩
  | none =>
    by_cases h : (effectiveOffset t a).toNat + b.toNat > vliMax
    · exact .inr (.inl ⟨rfl, h, by simp [frameCheck, ht, h]⟩)
    · exact .inr (.inr ⟨rfl, by omega, by simp [frameCheck, ht, h, Response.zero, ErrKind.code]⟩)

end Sys2Proof.Machine
end

