-- ==== Sys2Proof/Laws/Exec.lean ====
section
/-! SUPPORT. What an operation and a step can do, each said once. -/

namespace Sys2Proof.Machine

/-- What any operation does: it answers its response, and a reserved code also records its fault. -/
theorem exec_eq (i : Instr) (s : State) :
    exec i s = .next (if i.wellFormed = true then answer (respond i) s else answerIllegal s) := by
  cases i <;> rfl

/-- A reserved code is answered by IllegalOp. -/
theorem respond_of_not_wellFormed {i : Instr} (h : i.wellFormed = false) : respond i = raise .illegalOp 0#1 := by
  cases i <;> first | rfl | cases h

/-- Everything a step can do. -/
theorem step_cases (s : State) :
    (∃ q, nextRequest s = some q ∧ step s = exec (decode q) (present q s)) ∨
    (nextRequest s = none ∧ step s = .refused .runEnded) := by
  cases h : nextRequest s with
  | some q => exact .inl ⟨q, rfl, by simp only [step, h]⟩
  | none => exact .inr ⟨rfl, by simp only [step, h]⟩

/-- Everything a step that answers a next state has done. -/
theorem step_next_cases {s t : State} (h : step s = .next t) :
    ∃ q, nextRequest s = some q ∧
      t = if (decode q).wellFormed = true then answer (eval q) (present q s) else answerIllegal (present q s) := by
  obtain ⟨q, hq, hs⟩ | ⟨-, hs⟩ := step_cases s
  · rw [hs, exec_eq] at h
    exact ⟨q, hq, (Host.Outcome.next.inj h).symm⟩
  · rw [hs] at h
    cases h

/-- The stored request is the one found at its place. -/
theorem storeRequest_get (l : List Request) (k : Nat) (q : Request) : (storeRequest l k q)[k]? = some q := by
  induction l, k, q using storeRequest.induct <;> simp_all [storeRequest]

/-- Storing a request changes no other place of the host's list. -/
theorem storeRequest_get_of_ne (l : List Request) (k j : Nat) (q : Request) (hj : j ≠ k) (hl : j < l.length) :
    (storeRequest l k q)[j]? = l[j]? := by
  induction l, k, q using storeRequest.induct generalizing j with
  | case1 => simp at hl
  | case2 => simp at hl
  | case3 => cases j <;> simp_all [storeRequest]
  | case4 _ _ _ _ ih =>
    cases j with
    | zero => simp [storeRequest]
    | succ j => simpa [storeRequest] using ih j (by omega) (by simpa using hl)

/-- The very next step after `withFetchWord` runs exactly the request stored. -/
theorem step_withFetchWord (s : State) (k w : Nat) :
    step (s.withFetchWord k w) =
      exec (decode (Request.ofBits (w % 2 ^ k))) (present (Request.ofBits (w % 2 ^ k)) (s.withFetchWord k w)) := by
  have h : nextRequest (s.withFetchWord k w) = some (Request.ofBits (w % 2 ^ k)) := storeRequest_get _ _ _
  simp only [step, h]

end Sys2Proof.Machine
end

