-- ==== Sys2Proof/Laws/Eval.lean ====
section
/-! SUPPORT. `eval` for each operation code, so that no proof unfolds the decoder. -/

namespace Sys2Proof.Machine

/-- The eight operation codes. -/
theorem opcode_cases (op : BitVec 3) :
    op = 0b000#3 ∨ op = 0b001#3 ∨ op = 0b010#3 ∨ op = 0b011#3 ∨ op = 0b100#3 ∨ op = 0b101#3 ∨ op = 0b110#3 ∨
      op = 0b111#3 := by
  revert op
  decide

theorem eval_vliDecode {q : Request} (h : q.op = 0b000#3) : eval q = vliDecode q.a q.n := by
  cases q
  cases h
  rfl

theorem eval_vliEncode {q : Request} (h : q.op = 0b001#3) : eval q = vliEncode q.a := by
  cases q
  cases h
  rfl

theorem eval_ftParse {q : Request} (h : q.op = 0b010#3) : eval q = ftParse q.t := by
  cases q
  cases h
  rfl

theorem eval_ftBuild {q : Request} (h : q.op = 0b011#3) :
    eval q = ftBuild (q.t.getLsbD 2) (q.t.getLsbD 1) (q.t.getLsbD 0) := by
  cases q
  cases h
  rfl

theorem eval_frameCheck {q : Request} (h : q.op = 0b100#3) : eval q = frameCheck q.t q.a q.b := by
  cases q
  cases h
  rfl

theorem eval_sidClass {q : Request} (h : q.op = 0b101#3) : eval q = sidClass q.a := by
  cases q
  cases h
  rfl

theorem eval_reserved {q : Request} (h : q.op = 0b110#3 ∨ q.op = 0b111#3) : eval q = raise .illegalOp 0#1 := by
  cases q
  rcases h with h | h <;> cases h <;> rfl

/-- A request decodes to a well-formed operation exactly when its code is not reserved. -/
theorem decode_wellFormed (q : Request) : (decode q).wellFormed = true ↔ q.op.toNat < 6 := by
  cases q with
  | mk op a b n t =>
    rcases opcode_cases op with h | h | h | h | h | h | h | h <;> subst h
    all_goals first
      | exact iff_of_true rfl (by dsimp only; decide)
      | exact iff_of_false Bool.false_ne_true (by dsimp only; decide)

end Sys2Proof.Machine
end

