-- ==== Sys2Proof/Laws/PerInstr.lean ====
section
/-! SUPPORT. Statements about every operation as syntax, one lemma per constructor. -/

namespace Sys2Proof.Laws.EncodesItsOpcode

/-- The mnemonics of the rows of the opcode table that an operation code selects. -/
def selected (op : BitVec 3) : List String := (opTable.filter fun r => r.selects op).map OpRow.mnemonic

/-- The encoder drives the operation code of R51, and the operation is well-formed exactly when that code is not one of the
two reserved ones (R73, R75). -/
def Statement (i : Instr) : Prop :=
  selected (encode i).op = [i.mnemonic] ∧ (i.wellFormed = true ↔ (encode i).op.toNat < 6)

/-- The one row each code selects. -/
theorem selected_rows :
    selected 0b000#3 = ["VLI_DECODE"] ∧ selected 0b001#3 = ["VLI_ENCODE"] ∧ selected 0b010#3 = ["FT_PARSE"] ∧
    selected 0b011#3 = ["FT_BUILD"] ∧ selected 0b100#3 = ["FRAME_CHECK"] ∧ selected 0b101#3 = ["SID_CLASS"] ∧
    selected 0b110#3 = ["RESERVED_6"] ∧ selected 0b111#3 = ["RESERVED_7"] := by decide

theorem vliDecode (a : Word) (n : BitVec 4) : Statement (.vliDecode a n) :=
  ⟨selected_rows.1, iff_of_true rfl (show (0b000#3).toNat < 6 by decide)⟩
theorem vliEncode (a : Word) : Statement (.vliEncode a) :=
  ⟨selected_rows.2.1, iff_of_true rfl (show (0b001#3).toNat < 6 by decide)⟩
theorem ftParse (t : Byte) : Statement (.ftParse t) :=
  ⟨selected_rows.2.2.1, iff_of_true rfl (show (0b010#3).toNat < 6 by decide)⟩
theorem ftBuild (off len fin : Bool) : Statement (.ftBuild off len fin) :=
  ⟨selected_rows.2.2.2.1, iff_of_true rfl (show (0b011#3).toNat < 6 by decide)⟩
theorem frameCheck (t : Byte) (a b : Word) : Statement (.frameCheck t a b) :=
  ⟨selected_rows.2.2.2.2.1, iff_of_true rfl (show (0b100#3).toNat < 6 by decide)⟩
theorem sidClass (a : Word) : Statement (.sidClass a) :=
  ⟨selected_rows.2.2.2.2.2.1, iff_of_true rfl (show (0b101#3).toNat < 6 by decide)⟩
theorem reserved6 : Statement .reserved6 :=
  ⟨selected_rows.2.2.2.2.2.2.1, iff_of_false Bool.false_ne_true (show ¬ (0b110#3).toNat < 6 by decide)⟩
theorem reserved7 : Statement .reserved7 :=
  ⟨selected_rows.2.2.2.2.2.2.2, iff_of_false Bool.false_ne_true (show ¬ (0b111#3).toNat < 6 by decide)⟩

end Sys2Proof.Laws.EncodesItsOpcode
end

