-- ==== Sys2Proof/Laws/Run.lean ====
section
/-! SUPPORT. One step of a run, and everything a step of a platform can do. -/

namespace Sys2Proof.Machine

/-- A run whose first step answers `t` is the rest of the run from `t`, for any machine. -/
theorem core_run_succ (M : Host.Core) {s t : M.State} (k : Nat) (h : M.step s = .next t) :
    M.run (k + 1) s = M.run k t := by
  simp only [Host.Core.run, h]

/-- A run of VLICORE whose first step answers `t` is the rest of the run from `t`. -/
theorem run_succ {s t : State} (k : Nat) (h : step s = .next t) :
    Host.Core.run Sys2Proof.core (k + 1) s = Host.Core.run Sys2Proof.core k t :=
  core_run_succ Sys2Proof.core k h

/-- A platform's step that answers a next state has stepped one copy and put it back in its place. -/
theorem platform_step_next_cases {n : Nat} {k : Fin n} {p p' : Platform n} (h : Platform.step k p = .next p') :
    ∃ t, step p.copies[k] = .next t ∧ p' = ⟨p.copies.set k.val t k.isLt⟩ := by
  unfold Platform.step at h
  split at h
  · cases h
    exact ⟨_, ‹_›, rfl⟩
  · cases h
  · cases h

/-- A platform's step follows the step of its copy. -/
theorem platform_step_of_step {n : Nat} {k : Fin n} {p : Platform n} {t : State} (h : step p.copies[k] = .next t) :
    Platform.step k p = .next ⟨p.copies.set k.val t k.isLt⟩ := by
  unfold Platform.step
  rw [h]

end Sys2Proof.Machine
end

