-- ==== Sys2Proof/Tests/Slice0.lean ====
section
/-! SUPPORT. The model's own tests. Expected values are the vectors of 95_test_vectors.md, cited by their ids, or the words the
encoding of 30_encoding.md gives; then a witness for the hypotheses of each statement that has some. -/

namespace Sys2Proof.Tests

open Sys2Proof Sys2Proof.Machine

/-- A host that has the given requests and has presented none. -/
def hostWith (qs : List Request) : State := { State.reset with program := qs }

/-- The response of one step on the request of a written line, if the line is well-formed and the step answers. -/
def stepped (l : Asm) : Option Response :=
  if l.wellFormed then
    match step (hostWith [l.toRequest]) with
    | .next t => some t.out
    | _ => none
  else none

/-! ### Well-formed terms -/

theorem test_reserved6_not_wellFormed : Instr.wellFormed .reserved6 = false := by decide
theorem test_reserved7_not_wellFormed : Instr.wellFormed .reserved7 = false := by decide
theorem test_asm_no_bytes_refused : Asm.wellFormed (.vliDecode [] 1) = false := by decide
theorem test_asm_nine_bytes_refused : Asm.wellFormed (.vliDecode [0, 0, 0, 0, 0, 0, 0, 0, 0] 8) = false := by decide
theorem test_asm_length_16_refused : Asm.wellFormed (.vliDecode [0x25] 16) = false := by decide
theorem test_asm_value_65_bits_refused : Asm.wellFormed (.vliEncode (2 ^ 64)) = false := by decide
theorem test_asm_type_9_bits_refused : Asm.wellFormed (.ftParse 0x100) = false := by decide
theorem test_asm_flag_2_refused : Asm.wellFormed (.ftBuild 0 2 0) = false := by decide
theorem test_asm_offset_65_bits_refused : Asm.wellFormed (.frameCheck 0x0c (2 ^ 64) 0) = false := by decide
theorem test_asm_stream_id_65_bits_refused : Asm.wellFormed (.sidClass (2 ^ 64)) = false := by decide
theorem test_asm_illegal_5_refused : Asm.wellFormed (.illegal 5) = false := by decide

/-! ### Decoding: a word for each constructor, `op` on bits 2..0 and the ports as log entry 4 packs them -/

theorem test_decode_vliDecode :
    decodeTableWord 143 (0x4 * 2 ^ 131 + 0x9d7f3e7d00000000 * 2 ^ 3 + 0b000) = some (.vliDecode 0x9d7f3e7d00000000#64 4#4) := by
  decide
theorem test_decode_vliEncode :
    decodeTableWord 143 (0xffffffffffffffff * 2 ^ 3 + 0b001) = some (.vliEncode 0xffffffffffffffff#64) := by decide
theorem test_decode_ftParse : decodeTableWord 143 (0xf7 * 2 ^ 135 + 0b010) = some (.ftParse 0xf7#8) := by decide
/-- T27: `t[7:3]` is dropped. -/
theorem test_decode_ftBuild : decodeTableWord 143 (0xf9 * 2 ^ 135 + 0b011) = some (.ftBuild false false true) := by decide
theorem test_decode_frameCheck :
    decodeTableWord 143 (0x0f * 2 ^ 135 + 0x02 * 2 ^ 67 + 0x03 * 2 ^ 3 + 0b100) = some (.frameCheck 0x0f#8 0x03#64 0x02#64) := by
  decide
theorem test_decode_sidClass : decodeTableWord 143 (0x07 * 2 ^ 3 + 0b101) = some (.sidClass 0x07#64) := by decide
theorem test_decode_reserved6 : decodeTableWord 8 0x06 = some .reserved6 := by decide
theorem test_decode_reserved7 : decodeTableWord 8 0x07 = some .reserved7 := by decide
theorem test_decode_rejects_144th_bit : decodeTableWord 144 (2 ^ 143) = none := by decide
theorem test_withFetchWord_runs_it :
    (match step (State.reset.withFetchWord 8 0x07) with | .next t => some (t.out.err, t.index) | _ => none) =
      some (7#3, 1) := by decide

/-! ### One step of each operation -/

/-- W1. -/
theorem test_vliDecode_W1 :
    stepped (.vliDecode [0xc2, 0x19, 0x7c, 0x5e, 0xff, 0x14, 0xe8, 0x8c] 8) =
      some ⟨0, 0, 151288809941952652, 8, 3, 0, 0, 0⟩ := by decide
/-- V17: the length is checked before the first byte is read. -/
theorem test_vliDecode_V17 : stepped (.vliDecode [0x25] 3) = some ⟨1, 0, 0, 0, 0, 0, 0, 0⟩ := by decide
/-- X8. -/
theorem test_vliEncode_X8 : stepped (.vliEncode 494878333) = some ⟨0, 0, 0x9d7f3e7d00000000, 4, 2, 0, 0, 0⟩ := by decide
/-- X13. -/
theorem test_vliEncode_X13 : stepped (.vliEncode 0x4000000000000000) = some ⟨3, 0, 0, 0, 0, 0, 0, 0⟩ := by decide
/-- T9. -/
theorem test_ftParse_T9 : stepped (.ftParse 0x0e) = some ⟨0, 0, 0, 0, 0, 0b110, 0, 0⟩ := by decide
/-- T11 and T12: the marker is checked first. -/
theorem test_ftParse_T11_T12 :
    stepped (.ftParse 0x10) = some ⟨4, 0, 0, 0, 0, 0, 0, 0⟩ ∧ stepped (.ftParse 0x18) = some ⟨4, 1, 0, 0, 0, 0, 0, 0⟩ := by decide
/-- T23. -/
theorem test_ftBuild_T23 : stepped (.ftBuild 1 0 0) = some ⟨0, 0, 0x0c, 0, 0, 0, 0, 0⟩ := by decide
/-- F8. -/
theorem test_frameCheck_F8 :
    stepped (.frameCheck 0x0d 0x2000000000000000 0x1fffffffffffffff) =
      some ⟨0, 0, 0x2000000000000000, 0, 0, 0b101, 0, 0⟩ := by decide
/-- F11: the sum does not wrap. -/
theorem test_frameCheck_F11 : stepped (.frameCheck 0x0c 0xffffffffffffffff 1) = some ⟨5, 0, 0, 0, 0, 0, 0, 0⟩ := by decide
/-- S3. -/
theorem test_sidClass_S3 : stepped (.sidClass 2) = some ⟨0, 0, 0, 0, 0, 0, 0, 1⟩ := by decide
/-- S5, the example of C1 corrected. -/
theorem test_sidClass_S5 : stepped (.sidClass 4) = some ⟨0, 0, 0, 0, 0, 0, 0, 0⟩ := by decide
/-- S12. -/
theorem test_reserved6_S12 : stepped (.illegal 6) = some ⟨7, 0, 0, 0, 0, 0, 0, 0⟩ := by decide
/-- S13, and U1: the fault recorded names the request. -/
theorem test_reserved7_S13 :
    (match step (hostWith [(Asm.illegal 7).toRequest]) with | .next t => some (t.out.err, t.recorded) | _ => none) =
      some (7#3, [.illegalOp 0 (Asm.illegal 7).toRequest]) := by decide

/-- P5d: the error path of three requests. -/
theorem test_run_P5d :
    (match Host.Core.run Sys2Proof.core 3 (hostWith [(Asm.vliEncode 0x4000000000000000).toRequest,
        (Asm.vliDecode [0x25] 3).toRequest, (Asm.illegal 6).toRequest]) with
      | .next t => some (t.responses.map Response.err)
      | _ => none) = some [3#3, 1#3, 7#3] := by decide

/-- P2: a frame with OFF and LEN, its offset in a non-minimal form. -/
theorem test_walk_P2 :
    walk 0x0e [0x04, 0x40, 0x25, 0x05, 0x68, 0x65, 0x6c, 0x6c, 0x6f] =
      .frame 4 0 0 37 5 0b110 [0x68, 0x65, 0x6c, 0x6c, 0x6f] := by decide
/-- P3: FIN only, so the length is what remains. -/
theorem test_walk_P3 :
    walk 0x09 [0x7b, 0xbd, 0x61, 0x62, 0x63] = .frame 15293 1 0 0 3 0b001 [0x61, 0x62, 0x63] := by decide
/-- P5a, P5b and P5c: the overflow, the type byte out of range, the truncated length. -/
theorem test_walk_P5 :
    walk 0x0c [0x00, 0xff, 0xff, 0xff, 0xff, 0xff, 0xff, 0xff, 0xff, 0x41] = .rejected ⟨5, 0, 0, 0, 0, 0, 0, 0⟩ ∧
    walk 0x1e [0x04, 0x40] = .rejected ⟨4, 1, 0, 0, 0, 0, 0, 0⟩ ∧
    walk 0x0a [0x04, 0x9d, 0x7f] = .rejected ⟨2, 0, 0, 0, 0, 0, 0, 0⟩ := by decide

/-- Check (c) on a resolved count of 2^64, one more than `b` can hold (log entry 17). -/
theorem test_walk_count_beyond_port : walkCheck 0x08 0 0 0 (2 ^ 64) [] = .rejected ⟨5, 0, 0, 0, 0, 0, 0, 0⟩ := by decide

/-! ### Witnesses: the hypotheses of each statement that has some are met together -/

theorem witness_ResponseIgnoresUnreadBits :
    ∃ q q' : Request, q ≠ q' ∧ (decode q).format.reads.mask q = (decode q).format.reads.mask q' :=
  ⟨⟨0b010#3, 0, 0, 0, 0x0e⟩, ⟨0b010#3, 1, 2, 3, 0x0e⟩, by decide, by decide⟩

theorem witness_WrittenRequestsFillTheirPorts :
    Asm.wellFormed (.vliDecode [0xff, 1, 2, 3, 4, 5, 6, 7] 15) = true ∧ Asm.wellFormed (.vliDecode [0x25] 0) = true ∧
    Asm.wellFormed (.vliEncode (2 ^ 64 - 1)) = true ∧ Asm.wellFormed (.ftParse 0xff) = true ∧
    Asm.wellFormed (.ftBuild 1 0 1) = true ∧ Asm.wellFormed (.frameCheck 0xff (2 ^ 64 - 1) (2 ^ 64 - 1)) = true ∧
    Asm.wellFormed (.sidClass (2 ^ 64 - 1)) = true ∧ Asm.wellFormed (.illegal 6) = true ∧
    Asm.wellFormed (.illegal 7) = true := by decide

theorem witness_PackedFormIsExact : (2 : Nat) ^ 143 - 1 < 2 ^ 143 := by decide

/-- For StepRunsDecodedRequest, StepDrivesEval and NoStateBetweenRequests: two states with another past. -/
theorem witness_StepRunsDecodedRequest :
    ∃ (s s' : State) (q : Request), s ≠ s' ∧ s.program[s.index]? = some q ∧ s'.program[s'.index]? = some q :=
  ⟨hostWith [(Asm.sidClass 3).toRequest], { hostWith [Request.zero, (Asm.sidClass 3).toRequest] with index := 1 },
    (Asm.sidClass 3).toRequest, by decide, by decide, by decide⟩

theorem witness_ErrorLeavesNextResponseAlone :
    ∃ (s : State) (q q' q'' : Request), s.program[s.index]? = some q ∧ (eval q).err ≠ 0#3 ∧
      s.program[s.index + 1 + 0]? = some q' ∧ s.program[s.index + 1 + 1]? = some q'' ∧ 6 ≤ q'.op.toNat :=
  ⟨hostWith [Request.zero, (Asm.illegal 7).toRequest, (Asm.sidClass 3).toRequest], Request.zero, (Asm.illegal 7).toRequest,
    (Asm.sidClass 3).toRequest, by decide, by decide, by decide, by decide, by decide⟩

theorem witness_StepStopsOnlyAtEndOfRun :
    (hostWith [Request.zero]).index < (hostWith [Request.zero]).program.length ∧
    State.reset.program.length ≤ State.reset.index := by decide

/-- For RunObservesEveryResponseInOrder and OrderOfRequestsDoesNotMatter. -/
theorem witness_OrderOfRequestsDoesNotMatter :
    ∃ s s' : State, s ≠ s' ∧ s.AtStart ∧ s'.AtStart ∧ s.program.Perm s'.program :=
  ⟨hostWith [Request.zero, (Asm.sidClass 3).toRequest], hostWith [(Asm.sidClass 3).toRequest, Request.zero],
    by decide, ⟨rfl, rfl⟩, ⟨rfl, rfl⟩, List.Perm.swap _ _ _⟩

/-- One pair of `a` and `n` for each clause: 0 and 15, a length shorter and longer than the first byte wants, and the four
widths at the largest value. -/
theorem witness_VliDecodeResponse :
    (∀ n ∈ [0#4, 15#4], n ≠ 1#4 ∧ n ≠ 2#4 ∧ n ≠ 4#4 ∧ n ≠ 8#4) ∧
    (∀ n ∈ [1#4, 2#4, 8#4], (n = 1#4 ∨ n = 2#4 ∨ n = 4#4 ∨ n = 8#4) ∧
      2 ^ ((0x9d7f3e7d00000000 : Word).extractLsb 63 62).toNat ≠ n.toNat) ∧
    (0x3fffffffffffffff : Word).extractLsb 63 62 = 0b00#2 ∧ (0x7fffffffffffffff : Word).extractLsb 63 62 = 0b01#2 ∧
    (0xbfffffffffffffff : Word).extractLsb 63 62 = 0b10#2 ∧ (0xffffffffffffffff : Word).extractLsb 63 62 = 0b11#2 ∧
    (encode (.vliDecode 0 0)).op = 0b000#3 := by decide

/-- The ends of each range: 2^62, 0 and 63, 64 and 16383, 16384 and 2^30 − 1, 2^30 and 2^62 − 1. -/
theorem witness_VliEncodeResponse :
    (4611686018427387904 : Word).toNat > 2 ^ 62 - 1 ∧ (0 : Word).toNat < 2 ^ 6 ∧ (63 : Word).toNat < 2 ^ 6 ∧
    (∀ v ∈ ([64, 16383] : List Word), 2 ^ 6 ≤ v.toNat ∧ v.toNat < 2 ^ 14) ∧
    (∀ v ∈ ([16384, 1073741823] : List Word), 2 ^ 14 ≤ v.toNat ∧ v.toNat < 2 ^ 30) ∧
    (∀ v ∈ ([1073741824, 4611686018427387903] : List Word), 2 ^ 30 ≤ v.toNat ∧ v.toNat ≤ 2 ^ 62 - 1) ∧
    (encode (.vliEncode 0)).op = 0b001#3 := by
  refine ⟨by decide, by decide, by decide, by simp, by simp, by simp, rfl⟩

theorem witness_FtParseResponse :
    (∀ t ∈ ([0x07, 0x10, 0xf7] : List Byte), t.getLsbD 3 = false) ∧
    (∀ t ∈ ([0x18, 0xff] : List Byte), t.getLsbD 3 = true ∧ t.extractLsb 7 4 ≠ 0#4) ∧
    (∀ t ∈ ([0x08, 0x0f] : List Byte), t.getLsbD 3 = true ∧ t.extractLsb 7 4 = 0#4) ∧
    (encode (.ftParse 0)).op = 0b010#3 := by decide

theorem witness_FtBuildResponse : (encode (.ftBuild true false true)).op = 0b011#3 := by decide

/-- F4, F7 and F3 of the vectors for the two clauses on the sum, and the type bytes of `witness_FtParseResponse`. -/
theorem witness_FrameCheckResponse :
    (0 = (if (0x08 : Byte).getLsbD 2 then (0x3fffffffffffffff : Word).toNat else 0) ∧ 0 + (1 : Word).toNat ≤ 2 ^ 62 - 1) ∧
    (2 ^ 61 = (if (0x0d : Byte).getLsbD 2 then (0x2000000000000000 : Word).toNat else 0) ∧
      2 ^ 61 + (0x2000000000000000 : Word).toNat > 2 ^ 62 - 1) ∧
    (2 ^ 62 - 1 = (if (0x0c : Byte).getLsbD 2 then (0x3fffffffffffffff : Word).toNat else 0) ∧
      2 ^ 62 - 1 + (0 : Word).toNat ≤ 2 ^ 62 - 1) ∧
    (encode (.frameCheck 0 0 0)).op = 0b100#3 := by decide

/-- For SidClassResponse and ReservedCodesDriveIllegalOp: a request of each code. -/
theorem witness_SidClassResponse :
    (encode (.sidClass 0)).op = 0b101#3 ∧ (encode .reserved6).op = 0b110#3 ∧ (encode .reserved7).op = 0b111#3 := by decide

/-- For EveryOperationCompletesWithItsFrame: both cases of the last clause. -/
theorem witness_EveryOperationCompletesWithItsFrame :
    Instr.wellFormed (.vliDecode 0 0) = true ∧ Instr.wellFormed .reserved6 = false ∧ Instr.wellFormed .reserved7 = false := by
  decide

theorem witness_ErrorResponseIsOtherwiseZero :
    (eval Request.zero).err ≠ 0#3 ∧ (eval Request.zero).err ≠ 4#3 ∧ (eval (encode (.ftParse 0x18))).err = 4#3 := by decide

theorem witness_ErrorKindsAndCauses : (eval (encode (.frameCheck 0x07 0 0))).err = 4#3 := by decide

theorem witness_SuccessDrivesOnlyNamedOutputs :
    ∀ i ∈ [Instr.vliDecode 0x7bbd000000000000 2, .vliEncode 64, .ftParse 0x08, .ftBuild true true true,
      .frameCheck 0x0c 37 5, .sidClass 3], (eval (encode i)).err = 0#3 := by decide

theorem witness_PortHoldsBytesLeftJustified : ([1, 2, 3, 4, 5, 6, 7, 8] : List Byte).length ≤ 8 := by decide

/-- V4 against the same byte alone, and two requests of a length that is not legal. -/
theorem witness_DecoderReadsOnlyDeclaredLanes :
    (∀ k < (1#4).toNat, lane k (0x25ff000000000000 : Word) = lane k (0x2500000000000000 : Word)) ∧
    ¬ (3#4 = 1#4 ∨ 3#4 = 2#4 ∨ 3#4 = 4#4 ∨ 3#4 = 8#4) := by decide

theorem witness_OnlyTheImpliedWidthIsLegal : (encode (.vliDecode 0x4025000000000000 2)).op = 0b000#3 := by decide

/-- W2. -/
theorem witness_DecodedValueIsBigEndianModulo :
    ([0x9d, 0x7f, 0x3e, 0x7d] : List Byte).length = 2 ^ ((0x9d : Byte).extractLsb 7 6).toNat := by decide

theorem witness_NonMinimalEncodingsDecode :
    ∀ p ∈ [0#2, 1#2, 2#2, 3#2], 63 < 2 ^ (8 * 2 ^ p.toNat - 2) := by decide

/-- The two ends of the range, and W4 for the clause about every byte sequence. -/
theorem witness_NumberOfEncodings :
    2 ^ 62 - 1 ≤ 2 ^ 62 - 1 ∧ 0 ≤ 2 ^ 62 - 1 ∧ ([0x40, 0x25] : List Byte).length ≤ 8 ∧
    (eval (decodeRequest [0x40, 0x25] 2)).err = 0#3 ∧ (eval (decodeRequest [0x40, 0x25] 2)).y.toNat = 37 := by decide

theorem witness_DecodedValueRange :
    (encode (.vliDecode 0xffffffffffffffff 8)).op = 0b000#3 ∧ (eval (encode (.vliDecode 0xffffffffffffffff 8))).err = 0#3 := by
  decide

/-- For EncoderWidthIsPriorityTest and EncoderOutputBits: the largest value. -/
theorem witness_EncoderOutputBits :
    (encode (.vliEncode 0x3fffffffffffffff)).op = 0b001#3 ∧ (0x3fffffffffffffff : Word).extractLsb 63 62 = 0#2 ∧
    (eval (encode (.vliEncode 0x3fffffffffffffff))).err = 0#3 := by decide

/-- For CodecRoundTrip, CodecRoundTripOverTheWire and the first clause of EncodingIsCanonical. -/
theorem witness_CodecRoundTrip : (4611686018427387903 : Word).toNat ≤ 2 ^ 62 - 1 := by decide

/-- W4 and W5: the same value, of which only the second is minimal. -/
theorem witness_EncodingIsCanonical :
    (eval (encode (.vliDecode 0x4025000000000000 2))).err = 0#3 ∧ (eval (encode (.vliDecode 0x2500000000000000 1))).err = 0#3 := by
  decide

theorem witness_FrameCheckAgreesWithFtParse :
    (eval (encode (.ftParse 0x1e))).err ≠ 0#3 ∧ (eval (encode (.ftParse 0x0e))).err = 0#3 := by decide

theorem witness_DecodedFrameIsBounded :
    (eval (encode (.vliDecode 0xffffffffffffffff 8))).err = 0#3 ∧ 0x08 ≤ (0x0c : Byte).toNat ∧ (0x0c : Byte).toNat ≤ 0x0F ∧
    (0x0c : Byte).getLsbD 2 = true ∧ (encode (.vliDecode 0xffffffffffffffff 8)).op = 0b000#3 := by decide

/-- P2's frame with LEN set and a byte after it, and a frame without OFF and LEN that ends the packet. -/
theorem witness_FrameWalkInvertsLayout :
    0x08 ≤ (0x0e : Byte).toNat ∧ (0x0e : Byte).toNat ≤ 0x0F ∧ 4 < 2 ^ (8 * 2 ^ (0#2).toNat - 2) ∧
    37 < 2 ^ (8 * 2 ^ (1#2).toNat - 2) ∧ 5 < 2 ^ (8 * 2 ^ (0#2).toNat - 2) ∧
    (if (0x0e : Byte).getLsbD 2 then 37 else 0) + 5 ≤ 2 ^ 62 - 1 ∧
    ((0x0e : Byte).getLsbD 1 = false → [(0x01 : Byte)] = []) ∧
    frameBytes 0x0e (vliBytes 0#2 4) (vliBytes 1#2 37) (vliBytes 0#2 5) [0x68, 0x65, 0x6c, 0x6c, 0x6f] =
      0x0e :: [0x04, 0x40, 0x25, 0x05, 0x68, 0x65, 0x6c, 0x6c, 0x6f] ∧
    ((0x08 : Byte).getLsbD 1 = false → ([] : List Byte) = []) ∧
    frameBytes 0x08 (vliBytes 0#2 4) (vliBytes 1#2 37) (vliBytes 0#2 1) [0x61] = 0x08 :: [0x04, 0x61] := by decide

theorem witness_StreamTypesByLowTwoBits :
    (4 : Word) ≠ 8 ∧ (4 : Word).extractLsb 1 0 = (8 : Word).extractLsb 1 0 ∧ (4 : Word).extractLsb 1 0 = 0b00#2 ∧
    (5 : Word).extractLsb 1 0 = 0b01#2 ∧ (6 : Word).extractLsb 1 0 = 0b10#2 ∧ (7 : Word).extractLsb 1 0 = 0b11#2 := by decide

/-- For StepKeepsInvariant and SafeRunsPresentNoReservedCode: a state with the invariant, and a step from it. -/
theorem witness_StepKeepsInvariant : ∃ s t : State, Inv s ∧ step s = .next t :=
  ⟨hostWith [(Asm.illegal 6).toRequest], _,
    ⟨by unfold OutputsFollowInputs; decide, ⟨by decide, rfl⟩, rfl⟩, rfl⟩

theorem witness_SettledSampleIsEvalOfInputs : OutputsFollowInputs (hostWith []) := by unfold OutputsFollowInputs; decide

/-- For InstancesAreIndependent and EachInstanceDrivesEval: two instances with a request each. -/
theorem witness_InstancesAreIndependent :
    ∃ (p : Platform 2), (0 : Fin 2) ≠ 1 ∧
      (∃ p₁ p₂, Platform.step 0 p = .next p₁ ∧ Platform.step 1 p₁ = .next p₂) ∧
      (∃ p₃ p₄, Platform.step 1 p = .next p₃ ∧ Platform.step 0 p₃ = .next p₄) ∧
      p.copies[(0 : Fin 2)].program[p.copies[(0 : Fin 2)].index]? = some Request.zero :=
  ⟨⟨#v[hostWith [Request.zero], hostWith [(Asm.sidClass 3).toRequest]]⟩, by decide,
    ⟨_, _, rfl, rfl⟩, ⟨_, _, rfl, rfl⟩, rfl⟩

end Sys2Proof.Tests
end

section
/-! PROOFS. The statements of 10_state.md. What one operation, and one step, leaves behind is written once as a whole state;
every statement about a step is read off it. -/

namespace Sys2Proof.Machine

/-! ### The state an operation leaves behind -/

/-- All that an operation does: the response (`State.afterResponse`), and for a reserved code one recorded fault that names the
request on the ports (U1, log entry 5). Tied to the model by `exec_eq_next`. -/
def State.afterOperation (i : Instr) (s : State) : State :=
  { s.afterResponse (respond i) with
    recorded := s.recorded ++ if i.wellFormed = true then [] else [.illegalOp s.index s.inp] }

section Fields

variable (i : Instr) (s : State)

@[simp] theorem afterOperation_inp : (s.afterOperation i).inp = s.inp := rfl
@[simp] theorem afterOperation_out : (s.afterOperation i).out = respond i := rfl
@[simp] theorem afterOperation_program : (s.afterOperation i).program = s.program := rfl
@[simp] theorem afterOperation_index : (s.afterOperation i).index = s.index + 1 := rfl
@[simp] theorem afterOperation_responses : (s.afterOperation i).responses = s.responses ++ [respond i] := rfl
@[simp] theorem afterOperation_recorded :
    (s.afterOperation i).recorded =
      s.recorded ++ if i.wellFormed = true then [] else [.illegalOp s.index s.inp] := rfl

end Fields

/-- Every operation completes, and `State.afterOperation` is the next state. -/
theorem exec_eq_next (i : Instr) (s : State) : exec i s = .next (s.afterOperation i) := by
  rw [exec_eq]
  cases hi : i.wellFormed with
  | true => simp [State.afterOperation, State.afterResponse, answer, hi]
  | false => simp [State.afterOperation, State.afterResponse, answerIllegal, answer, hi, respond_of_not_wellFormed hi]

/-! ### The state a step leaves behind -/

/-- The state after the host has presented `q` and VLICORE has answered it. Tied to the model by `step_eq_next_iff`. -/
def State.afterRequest (q : Request) (s : State) : State := (present q s).afterOperation (decode q)

section Fields

variable (q : Request) (s : State)

@[simp] theorem afterRequest_inp : (s.afterRequest q).inp = q := rfl
@[simp] theorem afterRequest_out : (s.afterRequest q).out = eval q := rfl
@[simp] theorem afterRequest_program : (s.afterRequest q).program = s.program := rfl
@[simp] theorem afterRequest_index : (s.afterRequest q).index = s.index + 1 := rfl
@[simp] theorem afterRequest_responses : (s.afterRequest q).responses = s.responses ++ [eval q] := rfl

/-- A step records what `faultsFrom` counts for its one request. -/
@[simp] theorem afterRequest_recorded : (s.afterRequest q).recorded = s.recorded ++ faultsFrom s.index [q] := by
  by_cases hq : q.op.toNat < 6
  · simp [State.afterRequest, faultsFrom, (decode_wellFormed q).mpr hq, Nat.not_le.mpr hq]
  · simp [State.afterRequest, faultsFrom, mt (decode_wellFormed q).mp hq, Nat.not_lt.mp hq]

end Fields

/-- With a request at the host's index, a step runs the operation it decodes to, with the request on the input ports. -/
theorem step_eq_exec {s : State} {q : Request} (h : s.program[s.index]? = some q) :
    step s = exec (decode q) (present q s) := by
  obtain ⟨q', hq', hs⟩ | ⟨hq', -⟩ := step_cases s
  · cases hq'.symm.trans h
    exact hs
  · cases hq'.symm.trans h

/-- With a request at the host's index, a step answers it. -/
theorem step_eq_next {s : State} {q : Request} (h : s.program[s.index]? = some q) :
    step s = .next (s.afterRequest q) :=
  (step_eq_exec h).trans (exec_eq_next _ _)

/-- Without one, the run has ended (log entry 6). -/
theorem step_eq_runEnded {s : State} (h : s.program[s.index]? = none) : step s = .refused .runEnded := by
  obtain ⟨q, hq, -⟩ | ⟨-, hs⟩ := step_cases s
  · cases hq.symm.trans h
  · exact hs

/-- A step answers a next state exactly when the host has a request at its index, and that state is `State.afterRequest`. -/
theorem step_eq_next_iff {s t : State} :
    step s = .next t ↔ ∃ q, s.program[s.index]? = some q ∧ t = s.afterRequest q := by
  constructor
  · intro h
    obtain ⟨q, hq, -⟩ := step_next_cases h
    exact ⟨q, hq, Host.Outcome.next.inj (h.symm.trans (step_eq_next hq))⟩
  · rintro ⟨q, hq, rfl⟩
    exact step_eq_next hq

/-! ### Every answer keeps the invariant -/

/-- The faults of two lists presented one after the other. -/
theorem faultsFrom_append (k : Nat) (qs rs : List Request) :
    faultsFrom k (qs ++ rs) = faultsFrom k qs ++ faultsFrom (k + qs.length) rs := by
  induction qs generalizing k with
  | nil => rfl
  | cons q qs ih =>
    by_cases hq : 6 ≤ q.op.toNat <;> simp [faultsFrom, hq, ih, Nat.add_assoc, Nat.add_comm 1]

/-- The requests presented so far, after one more. -/
theorem take_index_succ {s : State} {q : Request} (h : s.program[s.index]? = some q) :
    s.program.take (s.index + 1) = s.program.take s.index ++ [q] := by
  rw [List.take_add_one, h]
  rfl

theorem index_lt_length {s : State} {q : Request} (h : s.program[s.index]? = some q) : s.index < s.program.length :=
  (List.getElem?_eq_some_iff.mp h).1

theorem outputsFollowInputs_afterRequest (q : Request) (s : State) : OutputsFollowInputs (s.afterRequest q) := rfl

theorem observationMatches_afterRequest {s : State} {q : Request} (hs : ObservationMatches s)
    (h : s.program[s.index]? = some q) : ObservationMatches (s.afterRequest q) := by
  obtain ⟨-, hresp⟩ := hs
  exact ⟨index_lt_length h, by simp [hresp, take_index_succ h]⟩

theorem faultsMatch_afterRequest {s : State} {q : Request} (hs : FaultsMatch s)
    (h : s.program[s.index]? = some q) : FaultsMatch (s.afterRequest q) := by
  have hlen : (s.program.take s.index).length = s.index := List.length_take_of_le (index_lt_length h).le
  calc (s.afterRequest q).recorded
      = faultsFrom 0 (s.program.take s.index) ++ faultsFrom s.index [q] := by rw [afterRequest_recorded, hs]
    _ = faultsFrom 0 (s.program.take s.index ++ [q]) := by rw [faultsFrom_append, hlen, Nat.zero_add]
    _ = faultsFrom 0 ((s.afterRequest q).program.take (s.afterRequest q).index) := by
        rw [afterRequest_program, afterRequest_index, take_index_succ h]

theorem inv_afterRequest {s : State} {q : Request} (hs : Inv s) (h : s.program[s.index]? = some q) :
    Inv (s.afterRequest q) where
  outputs := outputsFollowInputs_afterRequest q s
  observation := observationMatches_afterRequest hs.observation h
  faults := faultsMatch_afterRequest hs.faults h

/-! ### The flags of a type byte are bits of it (R67) -/

theorem packType_off (len fin : Bool) : packType true len fin = packType false len fin ||| 0x04#8 := by
  revert len fin
  decide

theorem packType_len (off fin : Bool) : packType off true fin = packType off false fin ||| 0x02#8 := by
  revert off fin
  decide

theorem packType_fin (off len : Bool) : packType off len true = packType off len false ||| 0x01#8 := by
  revert off len
  decide

/-! ### The statements -/

/-- Settles O46: a step answers `State.afterRequest`, which keeps each part of the invariant. -/
theorem stepKeepsInvariant : Obligations.StepKeepsInvariant := by
  intro s t hs hst
  obtain ⟨q, hq, rfl⟩ := step_eq_next_iff.mp hst
  exact inv_afterRequest hs hq

/-- Settles O10, reading the fields of the next state. -/
theorem stepDrivesEval : Obligations.StepDrivesEval := fun s q hq =>
  ⟨s.afterRequest q, step_eq_next hq, afterRequest_out q s, afterRequest_inp q s, afterRequest_index q s,
    afterRequest_responses q s, afterRequest_program q s⟩

/-- Settles O11: the ports after a step are a function of the request alone. -/
theorem noStateBetweenRequests : Obligations.NoStateBetweenRequests := by
  intro s s' q hq hq'
  refine ⟨s.afterRequest q, s'.afterRequest q, step_eq_next hq, step_eq_next hq', ?_, ?_⟩
  · rw [afterRequest_out, afterRequest_out]
  · rw [afterRequest_inp, afterRequest_inp]

/-- Settles O13. -/
theorem stepStopsOnlyAtEndOfRun : Obligations.StepStopsOnlyAtEndOfRun := fun _ =>
  ⟨fun hlt => ⟨_, step_eq_next (List.getElem?_eq_getElem hlt)⟩,
    fun hle => step_eq_runEnded (List.getElem?_eq_none hle)⟩

/-- Settles O23, reading the fields of the next state. -/
theorem everyOperationCompletesWithItsFrame : Obligations.EveryOperationCompletesWithItsFrame := fun i s =>
  ⟨s.afterOperation i, exec_eq_next i s, afterOperation_inp i s, afterOperation_program i s, afterOperation_index i s,
    afterOperation_responses i s, afterOperation_out i s, afterOperation_recorded i s⟩

/-- Settles O9. -/
theorem stepRunsDecodedRequest : Obligations.StepRunsDecodedRequest := fun _ _ => step_eq_exec

/-- Settles O27: the rows of the width table by computation, the masks by `packType_off`, `packType_len` and
`packType_fin`. -/
theorem widthTableAndMasks : Obligations.WidthTableAndMasks :=
  ⟨by decide, by decide, by decide, by decide, rfl, packType_off, packType_len, packType_fin⟩

/-- Settles O52: the platform's step follows the step of copy `k` and puts its next state back in place `k`. -/
theorem eachInstanceDrivesEval : Obligations.EachInstanceDrivesEval := by
  intro n p k q hq
  refine ⟨_, platform_step_of_step (step_eq_next hq), ?_, ?_⟩ <;> simp

end Sys2Proof.Machine
end

section
/-! PROOFS. The statements of 20_memory.md: the bytes of a port (R38), several instances (R141), any order of requests (R45),
and the walk of a STREAM frame (R37). -/

namespace Sys2Proof.Machine

/-! ### Instances -/

/-- A step of copy `k` leaves every other copy as it was. -/
theorem platform_step_copy_of_ne {n : Nat} {p p' : Platform n} {j k : Fin n} (hjk : j ≠ k)
    (h : Platform.step k p = .next p') : p'.copies[j] = p.copies[j] := by
  obtain ⟨t, -, rfl⟩ := platform_step_next_cases h
  exact Vector.getElem_set_ne k.isLt j.isLt (Fin.val_ne_of_ne hjk.symm)

/-- Steps of two copies give the same platform in either order: neither changes the copy the other steps. -/
theorem platform_step_comm {n : Nat} {p p₁ p₂ p₃ p₄ : Platform n} {j k : Fin n} (hjk : j ≠ k)
    (hj : Platform.step j p = .next p₁) (hk : Platform.step k p₁ = .next p₂)
    (hk' : Platform.step k p = .next p₃) (hj' : Platform.step j p₃ = .next p₄) : p₂ = p₄ := by
  have hcopyk := platform_step_copy_of_ne hjk.symm hj
  have hcopyj := platform_step_copy_of_ne hjk hk'
  obtain ⟨tj, htj, rfl⟩ := platform_step_next_cases hj
  obtain ⟨tk, htk, rfl⟩ := platform_step_next_cases hk
  obtain ⟨tk', htk', rfl⟩ := platform_step_next_cases hk'
  obtain ⟨tj', htj', rfl⟩ := platform_step_next_cases hj'
  rw [hcopyk, htk'] at htk
  rw [hcopyj, htj] at htj'
  cases htk
  cases htj'
  exact congrArg Platform.mk (Vector.set_comm _ _ (Fin.val_ne_of_ne hjk))

/-- Settles O51. -/
theorem instancesAreIndependent : Obligations.InstancesAreIndependent := fun _ _ _ _ hjk =>
  ⟨fun _ => platform_step_copy_of_ne hjk, fun _ _ _ _ => platform_step_comm hjk⟩

/-! ### Runs -/

/-- The state after the host has presented a list of requests, in order. Tied to the model by `run_eq_next`. -/
def State.afterRequests (qs : List Request) (s : State) : State := qs.foldl (fun s q => s.afterRequest q) s

@[simp] theorem afterRequests_nil (s : State) : s.afterRequests [] = s := rfl
@[simp] theorem afterRequests_cons (q : Request) (qs : List Request) (s : State) :
    s.afterRequests (q :: qs) = (s.afterRequest q).afterRequests qs := rfl

@[simp] theorem afterRequests_responses (qs : List Request) (s : State) :
    (s.afterRequests qs).responses = s.responses ++ qs.map eval := by
  induction qs generalizing s with
  | nil => simp
  | cons q qs ih => simp [ih]

/-- A run over requests that stand in the host's list from its index on answers each of them. -/
theorem run_eq_next (qs : List Request) (s : State) (h : qs <+: s.program.drop s.index) :
    Host.Core.run Sys2Proof.core qs.length s = .next (s.afterRequests qs) := by
  induction qs generalizing s with
  | nil => rfl
  | cons q qs ih =>
    obtain ⟨rs, hrs⟩ := h
    have hq : s.program[s.index]? = some q := by
      rw [← List.head?_drop, ← hrs]
      rfl
    have hqs : s.program.drop (s.index + 1) = qs ++ rs := by
      rw [← List.tail_drop, ← hrs]
      rfl
    exact (run_succ qs.length (step_eq_next hq)).trans (ih _ ⟨rs, hqs.symm⟩)

/-- A run from the start of the host's list pairs each request with `eval` of it. -/
theorem run_pairs_requests_with_eval {s : State} (hs : s.AtStart) :
    ∃ t, Host.Core.run Sys2Proof.core s.program.length s = .next t ∧
      s.program.zip t.responses = s.program.map fun q => (q, eval q) := by
  obtain ⟨hindex, hresp⟩ := hs
  refine ⟨_, run_eq_next s.program s (by simp [hindex]), ?_⟩
  rw [afterRequests_responses, hresp, List.nil_append, List.map_prod_left_eq_zip]

/-- Settles O15: the pairs are a map of the list, so permuting the list permutes them. -/
theorem orderOfRequestsDoesNotMatter : Obligations.OrderOfRequestsDoesNotMatter := by
  intro s s' hs hs' hperm
  obtain ⟨t, ht, hpairs⟩ := run_pairs_requests_with_eval hs
  obtain ⟨t', ht', hpairs'⟩ := run_pairs_requests_with_eval hs'
  refine ⟨t, t', ht, ht', ?_⟩
  rw [hpairs, hpairs']
  exact hperm.map _

/-! ### The bytes of a port -/

/-- The first `L` wire bytes of a port (R38). -/
def lanes (L : Nat) (w : Word) : List Byte := (List.range L).map fun k => lane k w

@[simp] theorem lanes_length (L : Nat) (w : Word) : (lanes L w).length = L := by simp [lanes]

theorem bigEndian_concat (bs : List Byte) (b : Byte) : bigEndian (bs ++ [b]) = bigEndian bs * 256 + b.toNat := by
  induction bs with
  | nil => simp [bigEndian]
  | cons c cs ih =>
    simp only [List.cons_append, bigEndian, ih, List.length_append, List.length_singleton, Nat.pow_succ]
    ring

/-- The big-endian value of the first lanes is what is left of the port when the other lanes are shifted out. -/
theorem bigEndian_lanes (L : Nat) (w : Word) (hL : L ≤ 8) : bigEndian (lanes L w) = w.toNat / 2 ^ (64 - 8 * L) := by
  induction L with
  | zero => exact (Nat.div_eq_of_lt w.isLt).symm
  | succ L ih =>
    have hshift : 2 ^ (64 - 8 * L) = 2 ^ (56 - 8 * L) * 256 := by
      rw [show 64 - 8 * L = 56 - 8 * L + 8 by omega, Nat.pow_add]
    have hsplit : lanes (L + 1) w = lanes L w ++ [lane L w] := by simp [lanes, List.range_succ]
    rw [hsplit, bigEndian_concat, ih (by omega), lane_toNat, hshift, ← Nat.div_div_eq_div_mul, Nat.div_add_mod',
      show 64 - 8 * (L + 1) = 56 - 8 * L by omega]

/-- A byte sequence of a given length is known by its big-endian value. -/
theorem bigEndian_inj {bs cs : List Byte} (hlen : bs.length = cs.length) (h : bigEndian bs = bigEndian cs) : bs = cs := by
  induction bs generalizing cs with
  | nil => exact (List.eq_nil_of_length_eq_zero hlen.symm).symm
  | cons b bs ih =>
    obtain _ | ⟨c, cs⟩ := cs
    · cases hlen
    · have hlen' : bs.length = cs.length := Nat.succ.inj hlen
      have hbs := bigEndian_lt bs
      have hcs := bigEndian_lt cs
      simp only [bigEndian, hlen'] at h hbs
      have hb : b.toNat = c.toNat := by
        have := congrArg (· / 256 ^ cs.length) h
        simpa [Nat.mul_add_div, Nat.mul_comm _ (256 ^ cs.length), Nat.div_eq_of_lt, hbs, hcs] using this
      rw [hb] at h
      rw [BitVec.eq_of_toNat_eq hb, ih hlen' (Nat.add_left_cancel h)]

/-- Bytes placed on a port stand in its first lanes. -/
theorem lanes_portOf (bs : List Byte) (h : bs.length ≤ 8) : lanes bs.length (portOf bs) = bs := by
  refine bigEndian_inj (lanes_length _ _) ?_
  rw [bigEndian_lanes _ _ h, portOf_toNat _ h, Nat.mul_div_cancel _ (Nat.two_pow_pos _)]

theorem lane_portOf (bs : List Byte) (h : bs.length ≤ 8) {k : Nat} (hk : k < bs.length) :
    some (lane k (portOf bs)) = bs[k]? := by
  conv_rhs => rw [← lanes_portOf bs h]
  simp [lanes, hk]

/-- The selector is the top two bits of wire byte 0. -/
theorem lane_zero_selector (w : Word) : (lane 0 w).extractLsb 7 6 = selector w := by
  apply BitVec.eq_of_toNat_eq
  have := w.isLt
  rw [selector_toNat, BitVec.extractLsb_toNat, lane_toNat, Nat.shiftRight_eq_div_pow]
  omega

/-- Settles O28: the number of a port by `bigEndian_lanes`, the bytes placed on one by `lane_portOf`. -/
theorem portHoldsBytesLeftJustified : Obligations.PortHoldsBytesLeftJustified := by
  refine ⟨fun a k _ => lane_toNat k a, fun a L hL => ?_, lane_zero_selector,
    fun bs hbs => ⟨portOf_toNat bs hbs, fun k => lane_portOf bs hbs⟩⟩
  change a.toNat = bigEndian (lanes L a) * 2 ^ (64 - 8 * L) + a.toNat % 2 ^ (64 - 8 * L)
  rw [bigEndian_lanes L a hL, Nat.div_add_mod']


/-! ### A VLI on the wire -/

@[simp] theorem vliBytes_length (p : BitVec 2) (v : Nat) : (vliBytes p v).length = widthBytes p := bytesOf_length _ _

theorem widthBytes_le (p : BitVec 2) : widthBytes p ≤ 8 := by
  revert p
  decide

/-- The bits of a VLI are its usable bits and the two of its selector (R58). -/
theorem eight_mul_widthBytes (p : BitVec 2) : 8 * widthBytes p = usableBits (widthBytes p) + 2 := by
  revert p
  decide

/-- The declared length that names the width of a class is legal and is that width. -/
theorem legalLength_widthBytes (p : BitVec 2) :
    legalLength (BitVec.ofNat 4 (widthBytes p)) = true ∧ (BitVec.ofNat 4 (widthBytes p)).toNat = widthBytes p := by
  revert p
  decide

/-- What VLICORE answers when it decodes `v` in the width of class `p`: `eval_decodeRequest_vliBytes`. -/
def decodedVli (p : BitVec 2) (v : Nat) : Response :=
  ⟨0#3, 0#1, BitVec.ofNat 64 v, BitVec.ofNat 4 (widthBytes p), p, 0#3, 0#1, 0#1⟩

/-! Of a value that fits the usable bits of class `p`. -/
section Fits

variable {p : BitVec 2} {v : Nat} (hv : v < 2 ^ usableBits (widthBytes p))
include hv

theorem lt_two_pow_64_of_fits : v < 2 ^ 64 := by
  have h8 := widthBytes_le p
  have hbits := eight_mul_widthBytes p
  exact hv.trans_le (Nat.pow_le_pow_right (by decide) (by omega))

/-- The value leaves the selector whole. -/
theorem wireWord_div : wireWord p v / 2 ^ usableBits (widthBytes p) = p.toNat := by
  rw [wireWord, Nat.mul_comm, Nat.mul_add_div (Nat.two_pow_pos _), Nat.div_eq_of_lt hv, Nat.add_zero]

theorem wireWord_mod : wireWord p v % 2 ^ usableBits (widthBytes p) = v := by
  rw [wireWord, Nat.add_comm, Nat.add_mul_mod_self_right, Nat.mod_eq_of_lt hv]

theorem wireWord_lt : wireWord p v < 2 ^ (8 * widthBytes p) := by
  rw [eight_mul_widthBytes, Nat.pow_add, Nat.mul_comm, ← Nat.div_lt_iff_lt_mul (Nat.two_pow_pos _), wireWord_div hv]
  exact p.isLt

/-- The bytes of a VLI carry its word (R59). -/
theorem bigEndian_vliBytes : bigEndian (vliBytes p v) = wireWord p v := by
  rw [vliBytes, bigEndian_bytesOf, show (256 : Nat) = 2 ^ 8 from rfl, ← Nat.pow_mul, Nat.mod_eq_of_lt (wireWord_lt hv)]

/-- On a port, the word of a VLI stands left-justified (R38). -/
theorem portOf_vliBytes_div : (portOf (vliBytes p v)).toNat / 2 ^ (64 - 8 * widthBytes p) = wireWord p v := by
  rw [portOf_toNat _ (by simpa using widthBytes_le p), vliBytes_length, Nat.mul_div_cancel _ (Nat.two_pow_pos _),
    bigEndian_vliBytes hv]

theorem selector_portOf_vliBytes : selector (portOf (vliBytes p v)) = p := by
  have h8 := widthBytes_le p
  have hbits := eight_mul_widthBytes p
  apply BitVec.eq_of_toNat_eq
  rw [selector_toNat, show 62 = 64 - 8 * widthBytes p + usableBits (widthBytes p) by omega, Nat.pow_add,
    ← Nat.div_div_eq_div_mul, portOf_vliBytes_div hv, wireWord_div hv]

theorem valueBits_portOf_vliBytes : valueBits (portOf (vliBytes p v)) (widthBytes p) = BitVec.ofNat 64 v := by
  apply BitVec.eq_of_toNat_eq
  rw [valueBits_toNat _ _ (widthBytes_le p), portOf_vliBytes_div hv, ← usableBits, wireWord_mod hv,
    BitVec.toNat_ofNat, Nat.mod_eq_of_lt (lt_two_pow_64_of_fits hv)]

/-- Decoding a VLI with its width declared gives the value back, in any width that holds it (R80). -/
theorem eval_decodeRequest_vliBytes :
    eval (decodeRequest (vliBytes p v) (BitVec.ofNat 4 (widthBytes p))) = decodedVli p v := by
  obtain ⟨hlegal, hn⟩ := legalLength_widthBytes p
  have hsel := selector_portOf_vliBytes hv
  rw [eval_vliDecode rfl]
  dsimp only [decodeRequest]
  obtain ⟨h, -⟩ | ⟨-, h, -⟩ | ⟨-, -, h⟩ := vliDecode_cases (portOf (vliBytes p v)) (BitVec.ofNat 4 (widthBytes p))
  · cases hlegal.symm.trans h
  · exact absurd (by rw [hsel, hn]) h
  · rw [h, hn, hsel, valueBits_portOf_vliBytes hv, decodedVli]

/-- Wire byte 0 of a VLI names its width (R60). -/
theorem vliBytes_eq_cons : ∃ b bs, vliBytes p v = b :: bs ∧ 2 ^ (b.toNat / 64) = widthBytes p := by
  have hpos : 0 < (vliBytes p v).length := by
    rw [vliBytes_length]
    exact Nat.two_pow_pos _
  obtain ⟨b, bs, hbs⟩ := List.exists_cons_of_length_pos hpos
  have hlane : lane 0 (portOf (vliBytes p v)) = b := by
    simpa [hbs] using lane_portOf (vliBytes p v) (by simpa using widthBytes_le p) hpos
  have hsel : b.extractLsb 7 6 = p := by rw [← hlane, lane_zero_selector, selector_portOf_vliBytes hv]
  have hdiv : b.toNat / 64 = p.toNat := by
    have := b.isLt
    rw [← hsel, BitVec.extractLsb_toNat, Nat.shiftRight_eq_div_pow]
    omega
  exact ⟨b, bs, hbs, congrArg (2 ^ ·) hdiv⟩

/-! ### The host's walk of a frame, field by field -/

/-- The host's VLI routine, on a VLI with any bytes after it, gives the value and leaves the cursor behind it. -/
theorem walkVli_vliBytes (rest : List Byte) : walkVli (vliBytes p v ++ rest) = (decodedVli p v, rest) := by
  obtain ⟨b, bs, hbs, hwidth⟩ := vliBytes_eq_cons hv
  have hcount : min (2 ^ (b.toNat / 64)) (vliBytes p v ++ rest).length = widthBytes p := by
    rw [hwidth, List.length_append, vliBytes_length]
    omega
  have hwalk : walkVli (vliBytes p v ++ rest) =
      (eval (decodeRequest ((vliBytes p v ++ rest).take (widthBytes p)) (BitVec.ofNat 4 (widthBytes p))),
        (vliBytes p v ++ rest).drop (widthBytes p)) := by
    rw [← hcount, hbs]
    rfl
  rw [hwalk, List.take_left' (vliBytes_length p v), List.drop_left' (vliBytes_length p v),
    eval_decodeRequest_vliBytes hv]

/-- WALK past the type byte and the stream ID. -/
theorem walk_layout {t : Byte} (ht : typeFailure t = none) (rest : List Byte) :
    walk t (vliBytes p v ++ rest) = walkOffset t (BitVec.ofNat 64 v) (frameFlags t) rest := by
  have hparse : eval (encode (.ftParse t)) = ⟨0#3, 0#1, 0#64, 0#4, 0#2, frameFlags t, 0#1, 0#1⟩ := by
    obtain ⟨ftw, h, -⟩ | ⟨-, h⟩ := ftParse_cases t
    · cases ht.symm.trans h
    · exact (eval_ftParse rfl).trans h
  simp [walk, hparse, walkVli_vliBytes hv, decodedVli]

end Fits

theorem frameFlags_getLsbD (t : Byte) {i : Nat} (hi : i < 3) : (frameFlags t).getLsbD i = t.getLsbD i := by
  simp [frameFlags, hi]

/-- WALK past the offset field: on the wire or omitted, what it leaves is the effective offset (R68). -/
theorem walkOffset_layout (t : Byte) (sid : Word) {p : BitVec 2} {off : Nat} (hoff : off < 2 ^ usableBits (widthBytes p))
    (rest : List Byte) :
    walkOffset t sid (frameFlags t) ((if t.getLsbD 2 then vliBytes p off else []) ++ rest) =
      walkLength t sid (frameFlags t) (BitVec.ofNat 64 (if t.getLsbD 2 then off else 0)) rest := by
  rw [walkOffset, frameFlags_getLsbD t (by decide)]
  cases t.getLsbD 2 with
  | true => simp [walkVli_vliBytes hoff, decodedVli]
  | false => simp

/-- WALK past the length field: on the wire or resolved to the bytes that remain, it is the number of data bytes (R105). -/
theorem walkLength_layout (t : Byte) (sid offset : Word) {p : BitVec 2} {data more : List Byte}
    (hlen : data.length < 2 ^ usableBits (widthBytes p)) (hmore : t.getLsbD 1 = false → more = []) :
    walkLength t sid (frameFlags t) offset ((if t.getLsbD 1 then vliBytes p data.length else []) ++ (data ++ more)) =
      walkCheck t sid (frameFlags t) offset data.length (data ++ more) := by
  rw [walkLength, frameFlags_getLsbD t (by decide)]
  cases hl : t.getLsbD 1 with
  | true =>
    have hnat : (BitVec.ofNat 64 data.length).toNat = data.length := Nat.mod_eq_of_lt (lt_two_pow_64_of_fits hlen)
    simp [-BitVec.toNat_ofNat, walkVli_vliBytes hlen, decodedVli, hnat]
  | false => simp [hmore hl]

/-- FRAME_CHECK of a legal type byte within the stream's range (R104). -/
theorem frameCheck_accepts {t : Byte} {a b : Word} (ht : typeFailure t = none)
    (hsum : (effectiveOffset t a).toNat + b.toNat ≤ vliMax) :
    frameCheck t a b = ⟨0#3, 0#1, effectiveOffset t a, 0#4, 0#2, frameFlags t, 0#1, 0#1⟩ := by
  obtain ⟨ftw, h, -⟩ | ⟨-, h, -⟩ | ⟨-, -, h⟩ := frameCheck_cases t a b
  · cases ht.symm.trans h
  · omega
  · exact h

/-- WALK's last lines: the check passes, and the frame carries the data bytes and the two bits of its stream ID. -/
theorem walkCheck_accepts {t : Byte} (sid : Word) {offset : Word} {data : List Byte} (more : List Byte)
    (ht : typeFailure t = none) (hoffset : effectiveOffset t offset = offset)
    (hsum : offset.toNat + data.length ≤ vliMax) :
    walkCheck t sid (frameFlags t) offset data.length (data ++ more) =
      .frame sid (initiatorBit sid) (directionBit sid) offset data.length (frameFlags t) data := by
  have hmax : vliMax < 2 ^ 64 - 1 := by decide
  have hnat : (BitVec.ofNat 64 data.length).toNat = data.length := Nat.mod_eq_of_lt (by omega)
  have hfits : (effectiveOffset t offset).toNat + (BitVec.ofNat 64 data.length).toNat ≤ vliMax := by rwa [hoffset, hnat]
  have hcheck : eval (encode (.frameCheck t offset (BitVec.ofNat 64 data.length))) =
      ⟨0#3, 0#1, effectiveOffset t offset, 0#4, 0#2, frameFlags t, 0#1, 0#1⟩ :=
    (eval_frameCheck rfl).trans (frameCheck_accepts ht hfits)
  have hclass : eval (encode (.sidClass sid)) = sidClass sid := eval_sidClass rfl
  rw [walkCheck, Nat.min_eq_left (by omega), hcheck, hclass, sidClass_eq, hoffset]
  simp

/-- The type bytes 0x08 to 0x0F are the legal ones. -/
theorem typeFailure_eq_none {t : Byte} (hlo : 0x08 ≤ t.toNat) (hhi : t.toNat ≤ 0x0F) : typeFailure t = none := by
  revert t
  decide

/-- The offset that is left of a frame is already the effective one. -/
theorem effectiveOffset_layout (t : Byte) (off : Nat) :
    effectiveOffset t (BitVec.ofNat 64 (if t.getLsbD 2 then off else 0)) =
      BitVec.ofNat 64 (if t.getLsbD 2 then off else 0) := by
  cases h : t.getLsbD 2 <;> simp [effectiveOffset, h]

theorem initiatorBit_ofNat (sid : Nat) : initiatorBit (BitVec.ofNat 64 sid) = BitVec.ofNat 1 sid := by
  apply BitVec.eq_of_toNat_eq
  rw [(sidBits_toNat _).1, BitVec.toNat_ofNat, BitVec.toNat_ofNat]
  omega

theorem directionBit_ofNat (sid : Nat) : directionBit (BitVec.ofNat 64 sid) = BitVec.ofNat 1 (sid / 2) := by
  apply BitVec.eq_of_toNat_eq
  rw [(sidBits_toNat _).2, BitVec.toNat_ofNat, BitVec.toNat_ofNat]
  omega

/-- Settles O45: the walk takes the fields off in the order in which the layout puts them (R37), one lemma for each. -/
theorem frameWalkInvertsLayout : Obligations.FrameWalkInvertsLayout := by
  intro t ps po pl sid off data rest more hlo hhi hsid hoff hlen hsum hmore hframe
  have ht := typeFailure_eq_none hlo hhi
  have hsum' : (BitVec.ofNat 64 (if t.getLsbD 2 then off else 0)).toNat + data.length ≤ vliMax :=
    (Nat.add_le_add_right (Nat.mod_le _ _) _).trans hsum
  obtain ⟨-, rfl⟩ := List.cons.inj hframe
  simp only [List.append_assoc]
  rw [walk_layout hsid ht, walkOffset_layout t _ hoff, walkLength_layout t _ _ hlen hmore,
    walkCheck_accepts _ more ht (effectiveOffset_layout t off) hsum', initiatorBit_ofNat, directionBit_ofNat]
  rfl

end Sys2Proof.Machine
end

section
/-! PROOFS. The statements of 30_encoding.md: the opcode map (R51, R53, R73, R78), the written requests (R76), the outputs a
response drives (R55, R56), and the encodings of a value (R59 to R64). -/

namespace Sys2Proof.Machine

/-! ### What VLI_ENCODE sends -/

/-- The smallest width holds the value, when any does (R63). -/
theorem minWidthClass_fits {v : Nat} (hv : v ≤ vliMax) : v < 2 ^ usableBits (widthBytes (minWidthClass v)) := by
  have hmax : vliMax < 2 ^ 62 := by decide
  obtain ⟨h, hp⟩ | ⟨-, h, hp⟩ | ⟨-, h, hp⟩ | ⟨-, hp⟩ := minWidthClass_cases v
  · rwa [hp]
  · rwa [hp]
  · rwa [hp]
  · rw [hp]
    exact hv.trans_lt hmax

theorem widthBytes_minWidthClass (v : Nat) : widthBytes (minWidthClass v) = leastWidth v := by
  simp only [minWidthClass, apply_ite widthBytes]
  rfl

/-- A word on a port and its bytes on the port are the same (R38). -/
theorem leftJustify_wireWord {p : BitVec 2} {v : Nat} (hv : v < 2 ^ usableBits (widthBytes p)) :
    leftJustify (widthBytes p) (wireWord p v) = portOf (vliBytes p v) := by
  rw [portOf, List.take_of_length_le (by simpa using widthBytes_le p), vliBytes_length, bigEndian_vliBytes hv]

/-- All that VLI_ENCODE answers for a value in range: the VLI of the least width, on the port. -/
theorem vliEncode_eq {a : Word} (ha : a.toNat ≤ vliMax) :
    vliEncode a =
      ⟨0#3, 0#1, portOf (vliBytes (minWidthClass a.toNat) a.toNat), BitVec.ofNat 4 (widthBytes (minWidthClass a.toNat)),
        minWidthClass a.toNat, 0#3, 0#1, 0#1⟩ := by
  obtain ⟨h, -⟩ | ⟨-, p, rfl, h⟩ := vliEncode_cases a
  · omega
  · rw [h, leftJustify_wireWord (minWidthClass_fits ha)]

theorem eval_encode_vliEncode (a : Word) : eval (encode (.vliEncode a)) = vliEncode a := eval_vliEncode rfl

/-- What a host sends of VLI_ENCODE's response is the VLI of the least width (R156). -/
theorem sentBytes_vliEncode {a : Word} (ha : a.toNat ≤ vliMax) :
    sentBytes (vliEncode a) = vliBytes (minWidthClass a.toNat) a.toNat := by
  rw [vliEncode_eq ha]
  change lanes (BitVec.ofNat 4 (widthBytes _)).toNat _ = _
  rw [(legalLength_widthBytes _).2]
  simpa using lanes_portOf (vliBytes (minWidthClass a.toNat) a.toNat) (by simpa using widthBytes_le _)

/-- Settles O38: the bytes sent are the VLI of the least width, whose first byte names that width and which decodes back. -/
theorem codecRoundTripOverTheWire : Obligations.CodecRoundTripOverTheWire := by
  rintro v e hv rfl
  have hfits := minWidthClass_fits hv
  obtain ⟨b0, bs, hbytes, hwidth⟩ := vliBytes_eq_cons hfits
  have hpeek : peekWidth b0 = BitVec.ofNat 4 (widthBytes (minWidthClass v.toNat)) := by rw [peekWidth, hwidth]
  rw [eval_encode_vliEncode]
  refine ⟨b0, bs, (sentBytes_vliEncode hv).trans hbytes, ?_, ?_, ?_⟩
  · rw [← hbytes, vliBytes_length, widthBytes_minWidthClass]
  · rw [hpeek, vliEncode_eq hv]
  · rw [vliEncode_eq hv, hpeek, ← hbytes, eval_decodeRequest_vliBytes hfits, decodedVli, BitVec.ofNat_toNat,
      BitVec.setWidth_eq]

/-! ### The decoder and the opcode map -/

/-- The name and the format of a decoded request depend on its operation code alone (R78). -/
theorem decode_name_and_format_of_op {q : Request} {op : BitVec 3} (h : q.op = op) :
    (decode q).mnemonic = (decode { Request.zero with op := op }).mnemonic ∧
    (decode q).format = (decode { Request.zero with op := op }).format := by
  obtain ⟨op', a, b, n, t⟩ := q
  subst h
  rcases opcode_cases op' with h | h | h | h | h | h | h | h <;> subst h <;> exact ⟨rfl, rfl⟩

/-- The row of the opcode map that each code selects, and no other row, is the one the decoder follows. -/
theorem opTable_row : ∀ op : BitVec 3,
    opTable.filter (fun row => row.selects op) =
      [⟨(decode { Request.zero with op := op }).mnemonic, (decode { Request.zero with op := op }).format, op, 0b111#3⟩] := by
  decide

/-- Every format reads the operation code (R52). -/
theorem mask_op (f : Format) (q : Request) : (f.reads.mask q).op = q.op := by
  cases f <;> exact BitVec.and_allOnes

/-- Clearing the bits an operation does not read keeps its response (R53). -/
theorem eval_mask (q : Request) : eval ((decode q).format.reads.mask q) = eval q := by
  have hmask {op : BitVec 3} (h : q.op = op) : ((decode q).format.reads.mask q).op = op := (mask_op _ q).trans h
  rcases opcode_cases q.op with h | h | h | h | h | h | h | h
  all_goals have hformat := (decode_name_and_format_of_op h).2
  · rw [eval_vliDecode (hmask h), eval_vliDecode h, hformat]
    exact congrArg₂ vliDecode BitVec.and_allOnes BitVec.and_allOnes
  · rw [eval_vliEncode (hmask h), eval_vliEncode h, hformat]
    exact congrArg vliEncode BitVec.and_allOnes
  · rw [eval_ftParse (hmask h), eval_ftParse h, hformat]
    exact congrArg ftParse BitVec.and_allOnes
  · rw [eval_ftBuild (hmask h), eval_ftBuild h, hformat]
    change ftBuild ((q.t &&& 7#8).getLsbD 2) ((q.t &&& 7#8).getLsbD 1) ((q.t &&& 7#8).getLsbD 0) = _
    simp
  · rw [eval_frameCheck (hmask h), eval_frameCheck h, hformat]
    change frameCheck (q.t &&& BitVec.allOnes 8) (q.a &&& BitVec.allOnes 64) (q.b &&& BitVec.allOnes 64) = _
    rw [BitVec.and_allOnes, BitVec.and_allOnes, BitVec.and_allOnes]
  · rw [eval_sidClass (hmask h), eval_sidClass h, hformat]
    change sidClass (q.a &&& 3#64) = _
    have hbit (x : BitVec 1) : x &&& 1#1 = x := BitVec.and_allOnes
    simp [sidClass_eq, initiatorBit, directionBit, BitVec.extractLsb'_and, hbit]
  · rw [eval_reserved (.inl (hmask h)), eval_reserved (.inl h)]
  · rw [eval_reserved (.inr (hmask h)), eval_reserved (.inr h)]

/-- Settles O7: two requests that agree on the bits read have one format, and are the same once the other bits are cleared. -/
theorem responseIgnoresUnreadBits : Obligations.ResponseIgnoresUnreadBits := by
  intro q q' h
  have hop : q.op = q'.op := by
    have := congrArg Request.op h
    rwa [mask_op, mask_op] at this
  have hformat := (decode_name_and_format_of_op hop).2.trans (decode_name_and_format_of_op rfl).2.symm
  calc eval q = eval ((decode q).format.reads.mask q) := (eval_mask q).symm
    _ = eval ((decode q').format.reads.mask q') := by rw [h, hformat]
    _ = eval q' := eval_mask q'

/-- Settles O1. -/
theorem opcodeSelectsOperation : Obligations.OpcodeSelectsOperation := fun _ _ _ _ =>
  ⟨rfl, rfl, rfl, rfl, rfl, rfl, rfl, rfl⟩

/-- Settles O2. -/
theorem opcodeMapHasOneRowPerCode : Obligations.OpcodeMapHasOneRowPerCode := fun q =>
  ⟨_, opTable_row q.op, rfl, decode_name_and_format_of_op rfl⟩

theorem decode_reserved6 {q : Request} (h : q.op = 0b110#3) : decode q = .reserved6 := by
  cases q
  cases h
  rfl

theorem decode_reserved7 {q : Request} (h : q.op = 0b111#3) : decode q = .reserved7 := by
  cases q
  cases h
  rfl

/-- Settles O22: the next state is `State.afterOperation` of a code that is not well-formed. -/
theorem reservedCodesDriveIllegalOp : Obligations.ReservedCodesDriveIllegalOp := by
  refine ⟨fun _ => decode_reserved6, fun _ => decode_reserved7, ?_⟩
  rintro s t rfl
  exact ⟨exec_eq_next .reserved6 s, exec_eq_next .reserved7 s⟩

/-- No fault is recorded of a list of requests exactly when none of them has a reserved code (U1). -/
theorem faultsFrom_eq_nil_iff (k : Nat) (qs : List Request) : faultsFrom k qs = [] ↔ ∀ q ∈ qs, q.op.toNat < 6 := by
  induction qs generalizing k with
  | nil => simp [faultsFrom]
  | cons q qs ih =>
    by_cases hq : q.op.toNat < 6
    · simp [faultsFrom, hq, ih, Nat.not_le.mpr hq]
    · simp [faultsFrom, hq, Nat.not_lt.mp hq]

/-- Settles O50: the invariant says which faults are recorded. -/
theorem safeRunsPresentNoReservedCode : Obligations.SafeRunsPresentNoReservedCode := by
  intro s hs
  rw [SafeRun, hs.faults, faultsFrom_eq_nil_iff]

/-! ### Written requests -/

/-- The lanes after the last byte are 0 (R38, R76). -/
theorem lane_portOf_of_length_le {bs : List Byte} {k : Nat} (hbs : bs.length ≤ k) (hk : k < 8) :
    lane k (portOf bs) = 0#8 := by
  apply BitVec.eq_of_toNat_eq
  have hshift : 2 ^ (64 - 8 * bs.length) = 2 ^ (8 * (k - bs.length)) * 256 * 2 ^ (56 - 8 * k) := by
    rw [show (256 : Nat) = 2 ^ 8 from rfl, ← Nat.pow_add, ← Nat.pow_add]
    congr 1
    omega
  rw [lane_toNat, portOf_toNat _ (by omega), hshift, ← Nat.mul_assoc, Nat.mul_div_cancel _ (Nat.two_pow_pos _),
    ← Nat.mul_assoc, Nat.mul_mod_left, BitVec.toNat_ofNat, Nat.zero_mod]

/-- The flags of a written FT_BUILD stand on `t[2:0]`, in the order off, len, fin (R76). -/
theorem flagByte_bits : ∀ off ≤ 1, ∀ len ≤ 1, ∀ fin ≤ 1,
    (BitVec.ofNat 8 (off * 4 + len * 2 + fin)).extractLsb 7 3 = 0#5 ∧
    ((BitVec.ofNat 8 (off * 4 + len * 2 + fin)).extractLsb 2 2).toNat = off ∧
    ((BitVec.ofNat 8 (off * 4 + len * 2 + fin)).extractLsb 1 1).toNat = len ∧
    ((BitVec.ofNat 8 (off * 4 + len * 2 + fin)).extractLsb 0 0).toNat = fin := by
  decide

/-- Settles O8, line by line of R76's table: each number written is in the range of its port. -/
theorem writtenRequestsFillTheirPorts : Obligations.WrittenRequestsFillTheirPorts := by
  intro l hl
  cases l with
  | vliDecode bytes n =>
    obtain ⟨-, hbytes, hn⟩ := of_decide_eq_true hl
    exact ⟨rfl, Nat.mod_eq_of_lt (by omega), rfl, rfl, fun k => lane_portOf bytes hbytes,
      fun k hk hle => lane_portOf_of_length_le hle hk⟩
  | vliEncode v => exact ⟨rfl, Nat.mod_eq_of_lt (of_decide_eq_true hl), rfl, rfl, rfl⟩
  | ftParse byte => exact ⟨rfl, Nat.mod_eq_of_lt (of_decide_eq_true hl), rfl, rfl, rfl⟩
  | ftBuild off len fin =>
    obtain ⟨hoff, hlen, hfin⟩ := of_decide_eq_true hl
    obtain ⟨hpad, hoff', hlen', hfin'⟩ := flagByte_bits off hoff len hlen fin hfin
    exact ⟨rfl, hpad, hoff', hlen', hfin', rfl, rfl, rfl⟩
  | frameCheck byte offset length =>
    obtain ⟨hbyte, hoffset, hlength⟩ := of_decide_eq_true hl
    exact ⟨rfl, Nat.mod_eq_of_lt hbyte, Nat.mod_eq_of_lt hoffset, Nat.mod_eq_of_lt hlength, rfl⟩
  | sidClass sid => exact ⟨rfl, Nat.mod_eq_of_lt (of_decide_eq_true hl), rfl, rfl, rfl⟩
  | illegal op =>
    obtain rfl | rfl := of_decide_eq_true hl
    · exact ⟨rfl, rfl, rfl, rfl, rfl⟩
    · exact ⟨rfl, rfl, rfl, rfl, rfl⟩

/-! ### What a response says of its request -/

/-- A response is a raised error, where an InvalidFrameType carries the sub-reason that the check of the type byte gives (R72),
or a success with `ftw` 0 (R55). -/
theorem eval_raise_or_success (q : Request) :
    (∃ e ftw, eval q = raise e ftw ∧ (e = .invalidFrameType → typeFailure q.t = some ftw)) ∨
    ((eval q).err = 0#3 ∧ (eval q).ftw = 0#1) := by
  rcases opcode_cases q.op with hop | hop | hop | hop | hop | hop | hop | hop
  · rw [eval_vliDecode hop]
    obtain ⟨-, hr⟩ | ⟨-, -, hr⟩ | ⟨-, -, hr⟩ := vliDecode_cases q.a q.n
    · exact .inl ⟨_, _, hr, nofun⟩
    · exact .inl ⟨_, _, hr, nofun⟩
    · exact .inr (hr ▸ ⟨rfl, rfl⟩)
  · rw [eval_vliEncode hop]
    obtain ⟨-, hr⟩ | ⟨-, p, -, hr⟩ := vliEncode_cases q.a
    · exact .inl ⟨_, _, hr, nofun⟩
    · exact .inr (hr ▸ ⟨rfl, rfl⟩)
  · rw [eval_ftParse hop]
    obtain ⟨ftw, ht, hr⟩ | ⟨-, hr⟩ := ftParse_cases q.t
    · exact .inl ⟨_, ftw, hr, fun _ => ht⟩
    · exact .inr (hr ▸ ⟨rfl, rfl⟩)
  · rw [eval_ftBuild hop]
    exact .inr ⟨rfl, rfl⟩
  · rw [eval_frameCheck hop]
    obtain ⟨ftw, ht, hr⟩ | ⟨-, -, hr⟩ | ⟨-, -, hr⟩ := frameCheck_cases q.t q.a q.b
    · exact .inl ⟨_, ftw, hr, fun _ => ht⟩
    · exact .inl ⟨_, _, hr, nofun⟩
    · exact .inr (hr ▸ ⟨rfl, rfl⟩)
  · rw [eval_sidClass hop]
    exact .inr ⟨rfl, rfl⟩
  · exact .inl ⟨_, 0#1, eval_reserved (.inl hop), nofun⟩
  · exact .inl ⟨_, 0#1, eval_reserved (.inr hop), nofun⟩

/-- Code 4 is InvalidFrameType's alone (R71). -/
theorem code_eq_four_iff (e : ErrKind) : e.code = 4#3 ↔ e = .invalidFrameType := by
  cases e <;> decide

/-- Settles O24: the response is a raised error, whose outputs `raise` fixes; the sub-reason is that of the type byte. -/
theorem errorResponseIsOtherwiseZero : Obligations.ErrorResponseIsOtherwiseZero := by
  intro q h
  obtain ⟨e, ftw, hr, hftw⟩ := (eval_raise_or_success q).resolve_right fun hok => h hok.1
  rw [hr]
  refine ⟨rfl, rfl, rfl, rfl, rfl, rfl, fun he => ?_, fun he => ?_⟩
  · rw [raise_ftw, if_neg (mt (code_eq_four_iff e).mpr he)]
  · have hkind := (code_eq_four_iff e).mp he
    rw [raise_ftw, if_pos hkind]
    change (_ ↔ _) ∧ (_ ↔ _ ∧ q.t.extractLsb' 4 4 ≠ 0#4)
    obtain ⟨h3, ht⟩ | ⟨h3, h4, ht⟩ | ⟨-, -, ht⟩ := typeFailure_cases q.t
    · cases ht.symm.trans (hftw hkind)
      exact ⟨iff_of_true rfl h3, iff_of_false (by decide) fun ⟨h, _⟩ => Bool.false_ne_true (h3.symm.trans h)⟩
    · cases ht.symm.trans (hftw hkind)
      exact ⟨iff_of_false (by decide) fun h => Bool.false_ne_true (h.symm.trans h3), iff_of_true rfl ⟨h3, h4⟩⟩
    · cases ht.symm.trans (hftw hkind)

/-! ### What a success says of its request -/

/-- A decode succeeds exactly when the length declared is the one the selector implies (R61); such a length is legal. -/
theorem vliDecode_err_eq_zero_iff (a : Word) (n : BitVec 4) :
    (vliDecode a n).err = 0#3 ↔ widthBytes (selector a) = n.toNat := by
  obtain ⟨hn, hr⟩ | ⟨-, hw, hr⟩ | ⟨-, hw, hr⟩ := vliDecode_cases a n
  · rw [hr]
    refine iff_of_false (by decide) fun hw => ?_
    obtain ⟨hlegal, -⟩ := legalLength_widthBytes (selector a)
    rw [hw, BitVec.ofNat_toNat, BitVec.setWidth_eq, hn] at hlegal
    cases hlegal
  · rw [hr]
    exact iff_of_false (by decide) hw
  · rw [hr]
    exact iff_of_true rfl hw

theorem vliDecode_success {a : Word} {n : BitVec 4} (h : (vliDecode a n).err = 0#3) :
    vliDecode a n = ⟨0#3, 0#1, valueBits a n.toNat, n, selector a, 0#3, 0#1, 0#1⟩ := by
  have hw := (vliDecode_err_eq_zero_iff a n).mp h
  obtain ⟨-, hr⟩ | ⟨-, hne, -⟩ | ⟨-, -, hr⟩ := vliDecode_cases a n
  · rw [hr] at h
    cases h
  · exact absurd hw hne
  · exact hr

theorem vliEncode_success {a : Word} (h : (vliEncode a).err = 0#3) : a.toNat ≤ vliMax := by
  obtain ⟨-, hr⟩ | ⟨ha, -⟩ := vliEncode_cases a
  · rw [hr] at h
    cases h
  · exact ha

theorem ftParse_success {t : Byte} (h : (ftParse t).err = 0#3) :
    ftParse t = ⟨0#3, 0#1, 0#64, 0#4, 0#2, frameFlags t, 0#1, 0#1⟩ := by
  obtain ⟨ftw, -, hr⟩ | ⟨-, hr⟩ := ftParse_cases t
  · rw [hr] at h
    cases h
  · exact hr

theorem frameCheck_success {t : Byte} {a b : Word} (h : (frameCheck t a b).err = 0#3) :
    frameCheck t a b = ⟨0#3, 0#1, effectiveOffset t a, 0#4, 0#2, frameFlags t, 0#1, 0#1⟩ := by
  obtain ⟨ftw, -, hr⟩ | ⟨-, -, hr⟩ | ⟨-, -, hr⟩ := frameCheck_cases t a b
  · rw [hr] at h
    cases h
  · rw [hr] at h
    cases h
  · exact hr

/-- Settles O30. -/
theorem onlyTheImpliedWidthIsLegal : Obligations.OnlyTheImpliedWidthIsLegal := by
  intro q hop
  rw [eval_vliDecode hop, vliDecode_err_eq_zero_iff, lane_zero_selector, eq_comm, widthBytes]

/-- Settles O43: with a legal type byte and OFF set, only the check of the sum is left, whatever the two
values are. -/
theorem decodedFrameIsBounded : Obligations.DecodedFrameIsBounded := by
  intro qo ql t _ _ _ _ hlo hhi hoff
  have ht := typeFailure_eq_none hlo hhi
  have heff : effectiveOffset t (eval qo).y = (eval qo).y := if_pos hoff
  rw [eval_frameCheck rfl]
  change ((frameCheck t (eval qo).y (eval ql).y).err = 0#3 ↔ _ ≤ vliMax) ∧
    ((frameCheck t (eval qo).y (eval ql).y).err ≠ 0#3 → (frameCheck t (eval qo).y (eval ql).y).err = 5#3)
  obtain ⟨ftw, h, -⟩ | ⟨-, hsum, hr⟩ | ⟨-, hsum, hr⟩ := frameCheck_cases t (eval qo).y (eval ql).y
  · cases ht.symm.trans h
  · rw [hr, ← heff]
    exact ⟨iff_of_false (by decide) (Nat.not_le.mpr hsum), fun _ => rfl⟩
  · rw [hr, ← heff]
    exact ⟨iff_of_true rfl hsum, fun h => absurd rfl h⟩

/-- VLI_ENCODE's word of a value in range, as a number: `(p · 2^(8L − 2) + v) · 2^(64 − 8L)` (R85). -/
theorem portOf_vliBytes_toNat {p : BitVec 2} {v : Nat} (hv : v < 2 ^ usableBits (widthBytes p)) :
    (portOf (vliBytes p v)).toNat =
      (p.toNat * 2 ^ (8 * widthBytes p - 2) + v) * 2 ^ (64 - 8 * widthBytes p) := by
  rw [portOf_toNat _ (by simpa using widthBytes_le p), vliBytes_length, bigEndian_vliBytes hv, wireWord, usableBits]

/-- The byte FT_BUILD makes is `{0b00001, t[2:0]}` (R102). -/
theorem packType_eq_append : ∀ t : Byte,
    packType (t.getLsbD 2) (t.getLsbD 1) (t.getLsbD 0) = 0b00001#5 ++ t.extractLsb 2 0 := by
  decide

/-- A byte on a port, and the bits above it. -/
theorem byte_setWidth_slices (b : Byte) :
    (b.setWidth 64).extractLsb 7 0 = b ∧ (b.setWidth 64).extractLsb 63 8 = 0#56 := by
  have := b.isLt
  constructor <;> apply BitVec.eq_of_toNat_eq <;>
    simp only [BitVec.extractLsb_toNat, BitVec.toNat_setWidth, BitVec.toNat_ofNat, Nat.shiftRight_eq_div_pow]
  · omega
  · omega

/-- R55 for VLI_DECODE. -/
theorem vliDecode_drives {a : Word} {n : BitVec 4} (h : (vliDecode a n).err = 0#3) :
    (vliDecode a n).y.toNat = bigEndian (lanes n.toNat a) % 2 ^ (8 * n.toNat - 2) ∧
    (vliDecode a n).y.extractLsb 63 62 = 0#2 := by
  have hn : n.toNat ≤ 8 := (vliDecode_err_eq_zero_iff a n).mp h ▸ widthBytes_le _
  have hy : (vliDecode a n).y.toNat = bigEndian (lanes n.toNat a) % 2 ^ (8 * n.toNat - 2) := by
    rw [vliDecode_success h, valueBits_toNat a _ hn, bigEndian_lanes _ _ hn]
  refine ⟨hy, BitVec.eq_of_toNat_eq ?_⟩
  have hlt : (vliDecode a n).y.toNat < 2 ^ 62 :=
    hy ▸ (Nat.mod_lt _ (Nat.two_pow_pos _)).trans_le (Nat.pow_le_pow_right (by decide) (by omega))
  rw [BitVec.extractLsb_toNat, Nat.shiftRight_eq_div_pow, Nat.div_eq_of_lt hlt]
  rfl

/-- On success `ftw` is 0: a response that is raised with `err` 0 is no InvalidFrameType. -/
theorem ftw_eq_zero_of_success {q : Request} (h : (eval q).err = 0#3) : (eval q).ftw = 0#1 := by
  obtain ⟨e, ftw, hr, -⟩ | ⟨-, hftw⟩ := eval_raise_or_success q
  · rw [hr] at h ⊢
    refine if_neg ?_
    rintro rfl
    cases h
  · exact hftw

/-- Settles O26, operation by operation from what each answers on success. -/
theorem successDrivesOnlyNamedOutputs : Obligations.SuccessDrivesOnlyNamedOutputs := by
  intro q h
  refine ⟨ftw_eq_zero_of_success h, fun hop => ?_, fun hop => ?_, fun hop => ?_, fun hop => ?_, fun hop => ?_,
    fun hop => ?_⟩
  · rw [eval_vliDecode hop] at h ⊢
    obtain ⟨hy, htop⟩ := vliDecode_drives h
    refine ⟨hy, htop, ?_⟩
    rw [vliDecode_success h]
    exact ⟨rfl, rfl, rfl, rfl, rfl⟩
  · rw [eval_vliEncode hop] at h ⊢
    have ha := vliEncode_success h
    have hfits := minWidthClass_fits ha
    rw [vliEncode_eq ha]
    dsimp only
    rw [(legalLength_widthBytes _).2]
    exact ⟨portOf_vliBytes_toNat hfits, widthBytes_minWidthClass _, rfl, (selector_portOf_vliBytes hfits).symm, rfl, rfl,
      rfl⟩
  · rw [eval_ftParse hop] at h ⊢
    rw [ftParse_success h]
    exact ⟨rfl, rfl, rfl, rfl, rfl, rfl⟩
  · rw [eval_ftBuild hop, ftBuild_eq, packType_eq_append]
    obtain ⟨hbyte, hzero⟩ := byte_setWidth_slices (0b00001#5 ++ q.t.extractLsb 2 0)
    exact ⟨hbyte, hzero, rfl, rfl, rfl, rfl, rfl⟩
  · rw [eval_frameCheck hop] at h ⊢
    rw [frameCheck_success h]
    exact ⟨rfl, rfl, rfl, rfl, rfl, rfl⟩
  · rw [eval_sidClass hop, sidClass_eq]
    exact ⟨rfl, rfl, rfl, rfl, rfl, rfl⟩

/-! ### The encodings of a value -/

/-- A byte sequence that has the width its own selector implies is the VLI of its value (R59). -/
theorem eq_vliBytes {bs : List Byte} {p : BitVec 2} (hlen : bs.length = widthBytes p) (hsel : selector (portOf bs) = p) :
    bs = vliBytes p (bigEndian bs % 2 ^ usableBits (widthBytes p)) := by
  have h8 := widthBytes_le p
  have hbits := eight_mul_widthBytes p
  have hp : bigEndian bs / 2 ^ usableBits (widthBytes p) = p.toNat := by
    rw [← hsel, selector_toNat, hsel, portOf_toNat _ (by omega), hlen,
      show 62 = 64 - 8 * widthBytes p + usableBits (widthBytes p) by omega, Nat.pow_add, ← Nat.div_div_eq_div_mul,
      Nat.mul_div_cancel _ (Nat.two_pow_pos _)]
  refine bigEndian_inj (by rw [hlen, vliBytes_length]) ?_
  rw [bigEndian_vliBytes (Nat.mod_lt _ (Nat.two_pow_pos _)), wireWord, ← hp, Nat.div_add_mod']

/-- Decoding such a byte sequence with its length declared gives its value. -/
theorem eval_decodeRequest_of_implied_width {bs : List Byte} {p : BitVec 2} (hlen : bs.length = widthBytes p)
    (hsel : selector (portOf bs) = p) :
    eval (decodeRequest bs (BitVec.ofNat 4 bs.length)) = decodedVli p (bigEndian bs % 2 ^ usableBits (widthBytes p)) := by
  rw [hlen]
  conv_lhs => rw [eq_vliBytes hlen hsel]
  exact eval_decodeRequest_vliBytes (Nat.mod_lt _ (Nat.two_pow_pos _))

/-- Settles O31. -/
theorem decodedValueIsBigEndianModulo : Obligations.DecodedValueIsBigEndianModulo := by
  intro b0 bs hlen
  replace hlen : (b0 :: bs).length = widthBytes (b0.extractLsb 7 6) := hlen
  have hlane : lane 0 (portOf (b0 :: bs)) = b0 := by
    simpa using lane_portOf (b0 :: bs) (hlen ▸ widthBytes_le _) (Nat.succ_pos _)
  have hsel : selector (portOf (b0 :: bs)) = b0.extractLsb 7 6 := by rw [← lane_zero_selector, hlane]
  rw [eval_decodeRequest_of_implied_width hlen hsel, decodedVli, usableBits, ← hlen]

/-- A byte sequence is a legal encoding of a value exactly when it is its VLI in a width that holds it (R62). -/
theorem mem_vliEncodings {v : Nat} {bs : List Byte} :
    bs ∈ vliEncodings v ↔ ∃ p, v < 2 ^ usableBits (widthBytes p) ∧ vliBytes p v = bs := by
  have hclass : ∀ p : BitVec 2, p ∈ [0#2, 1#2, 2#2, 3#2] := by decide
  simp only [vliEncodings, List.mem_map, List.mem_filter, decide_eq_true_eq, hclass, true_and]

/-- How many widths hold a value (R64). -/
theorem vliEncodings_length {v : Nat} (hv : v ≤ vliMax) :
    (vliEncodings v).length = if v < 64 then 4 else if v < 16384 then 3 else if v < 2 ^ 30 then 2 else 1 := by
  have hbits : usableBits (widthBytes 0#2) = 6 ∧ usableBits (widthBytes 1#2) = 14 ∧ usableBits (widthBytes 2#2) = 30 ∧
      usableBits (widthBytes 3#2) = 62 := by decide
  obtain ⟨h0, h1, h2, h3⟩ := hbits
  have hmax : vliMax < 2 ^ 62 := by decide
  simp only [vliEncodings, List.length_map, List.filter_cons, List.filter_nil, h0, h1, h2, h3, decide_eq_true_eq,
    apply_ite List.length, List.length_cons, List.length_nil]
  split_ifs <;> omega

/-- The encodings of a value differ in length (R62). -/
theorem vliEncodings_lengths_nodup (v : Nat) : ((vliEncodings v).map List.length).Nodup := by
  have hwidths : (vliEncodings v).map List.length =
      ([0#2, 1#2, 2#2, 3#2].filter fun p => decide (v < 2 ^ usableBits (widthBytes p))).map widthBytes := by
    simp [vliEncodings, Function.comp_def]
  rw [hwidths]
  exact (List.filter_sublist.map widthBytes).nodup (by decide)

/-- A byte sequence that decodes with its length declared is a legal encoding of the value decoded. -/
theorem mem_vliEncodings_of_decodes {bs : List Byte} (hlen : bs.length ≤ 8)
    (herr : (eval (decodeRequest bs (BitVec.ofNat 4 bs.length))).err = 0#3) :
    bs ∈ vliEncodings (eval (decodeRequest bs (BitVec.ofNat 4 bs.length))).y.toNat := by
  rw [eval_vliDecode rfl, vliDecode_err_eq_zero_iff] at herr
  have hwidth : bs.length = widthBytes (selector (portOf bs)) :=
    (Nat.mod_eq_of_lt (by omega : bs.length < 2 ^ 4)).symm.trans herr.symm
  have hfits := Nat.mod_lt (bigEndian bs) (Nat.two_pow_pos (usableBits (widthBytes (selector (portOf bs)))))
  rw [eval_decodeRequest_of_implied_width hwidth rfl, decodedVli, BitVec.toNat_ofNat,
    Nat.mod_eq_of_lt (lt_two_pow_64_of_fits hfits)]
  exact mem_vliEncodings.mpr ⟨_, hfits, (eq_vliBytes hwidth rfl).symm⟩

/-- Settles O33: the encodings are the VLIs in the widths that hold the value, and VLI_ENCODE sends the one of the least. -/
theorem numberOfEncodings : Obligations.NumberOfEncodings := by
  intro v hv
  have hnodup := vliEncodings_lengths_nodup v
  refine ⟨vliEncodings_length hv, hnodup, fun bs hbs => ?_, fun bs hlen herr hy => ?_, ?_⟩
  · obtain ⟨p, hfits, rfl⟩ := mem_vliEncodings.mp hbs
    rw [vliBytes_length, eval_decodeRequest_vliBytes hfits]
    exact ⟨rfl, Nat.mod_eq_of_lt (lt_two_pow_64_of_fits hfits)⟩
  · exact hy ▸ mem_vliEncodings_of_decodes hlen herr
  · have hnat : (BitVec.ofNat 64 v).toNat = v := Nat.mod_eq_of_lt (by omega)
    have hsent : sentBytes (eval (encode (.vliEncode (BitVec.ofNat 64 v)))) = vliBytes (minWidthClass v) v := by
      rw [eval_encode_vliEncode, sentBytes_vliEncode (hnat.trans_le hv), hnat]
    have hmem := mem_vliEncodings.mpr ⟨_, minWidthClass_fits hv, rfl⟩
    rw [hsent, ← List.countP_eq_length_filter]
    exact List.count_eq_one_of_mem (hnodup.of_map _) hmem

end Sys2Proof.Machine
end

section
/-! PROOFS. The statements of 40_vli_codec.md: the responses of VLI_DECODE (R80 to R84) and VLI_ENCODE (R85 to R87), and the
round trip of the two (R88, R89). -/

namespace Sys2Proof.Machine

/-! ### The round trip -/

/-- Settles O37: VLI_ENCODE puts the VLI of the least width on the port, and any VLI decodes back. -/
theorem codecRoundTrip : Obligations.CodecRoundTrip := by
  rintro v e hv rfl
  rw [eval_encode_vliEncode, vliEncode_eq hv]
  calc eval (encode (.vliDecode (portOf (vliBytes (minWidthClass v.toNat) v.toNat)) _))
      = decodedVli (minWidthClass v.toNat) v.toNat := eval_decodeRequest_vliBytes (minWidthClass_fits hv)
    _ = _ := by rw [decodedVli, BitVec.ofNat_toNat, BitVec.setWidth_eq]

/-! ### The responses -/

theorem decode_vliDecode {q : Request} (h : q.op = 0b000#3) : decode q = .vliDecode q.a q.n := by
  cases q
  cases h
  rfl

theorem decode_vliEncode {q : Request} (h : q.op = 0b001#3) : decode q = .vliEncode q.a := by
  cases q
  cases h
  rfl

/-- A well-formed operation records no fault: it leaves its response and nothing else. -/
theorem exec_of_wellFormed {i : Instr} (hi : i.wellFormed = true) (s : State) :
    exec i s = .next (s.afterResponse (respond i)) := by
  rw [exec_eq, if_pos hi]
  rfl

theorem exec_vliDecode (a : Word) (n : BitVec 4) (s : State) :
    exec (.vliDecode a n) s = .next (s.afterResponse (vliDecode a n)) := exec_of_wellFormed rfl s

theorem exec_vliEncode (a : Word) (s : State) :
    exec (.vliEncode a) s = .next (s.afterResponse (vliEncode a)) := exec_of_wellFormed rfl s

theorem legalLength_iff (n : BitVec 4) : legalLength n = true ↔ n = 1#4 ∨ n = 2#4 ∨ n = 4#4 ∨ n = 8#4 := by
  revert n
  decide

theorem vliDecode_of_illegal_length {n : BitVec 4} (h : ¬ legalLength n = true) (a : Word) :
    vliDecode a n = raise .invalidLength 0#1 := by
  obtain ⟨-, hr⟩ | ⟨hn, -⟩ | ⟨hn, -⟩ := vliDecode_cases a n
  · exact hr
  · exact absurd hn h
  · exact absurd hn h

theorem vliDecode_of_other_width {a : Word} {n : BitVec 4} (hn : legalLength n = true)
    (hw : widthBytes (selector a) ≠ n.toNat) : vliDecode a n = raise .lengthMismatch 0#1 := by
  obtain ⟨h, -⟩ | ⟨-, -, hr⟩ | ⟨-, h, -⟩ := vliDecode_cases a n
  · cases hn.symm.trans h
  · exact hr
  · exact absurd h hw

/-- A decode with the length that the selector implies (R80). -/
theorem vliDecode_of_selector {a : Word} {p : BitVec 2} (h : selector a = p) :
    vliDecode a (BitVec.ofNat 4 (widthBytes p)) =
      ⟨0#3, 0#1, valueBits a (widthBytes p), BitVec.ofNat 4 (widthBytes p), p, 0#3, 0#1, 0#1⟩ := by
  obtain ⟨-, hn⟩ := legalLength_widthBytes p
  rw [vliDecode_success ((vliDecode_err_eq_zero_iff _ _).mpr (by rw [h, hn])), h, hn]

/-- Settles O16: the two checks in their order, then `vliDecode_of_selector` at each of the four widths. -/
theorem vliDecodeResponse : Obligations.VliDecodeResponse := by
  refine ⟨fun _ => decode_vliDecode, fun a n s => ?_⟩
  rw [exec_vliDecode]
  refine ⟨fun ⟨h1, h2, h4, h8⟩ => ?_, fun hn hw => ?_, ?_, ?_, ?_, ?_⟩
  · rw [vliDecode_of_illegal_length (by simp [legalLength_iff, h1, h2, h4, h8])]
    rfl
  · rw [vliDecode_of_other_width ((legalLength_iff n).mpr hn) hw]
    rfl
  all_goals
    rintro rfl hsel
    exact congrArg (Host.Outcome.next ∘ s.afterResponse) (vliDecode_of_selector hsel)

theorem vliEncode_of_out_of_range {a : Word} (h : vliMax < a.toNat) : vliEncode a = raise .valueOutOfRange 0#1 := by
  obtain ⟨-, hr⟩ | ⟨ha, -⟩ := vliEncode_cases a
  · exact hr
  · exact absurd h (Nat.not_lt.mpr ha)

/-- The response in the width of class `p`, when that is the least (R85). -/
theorem vliEncode_of_minWidthClass {a : Word} {p : BitVec 2} (ha : a.toNat ≤ vliMax) (hp : minWidthClass a.toNat = p) :
    vliEncode a =
      ⟨0#3, 0#1, leftJustify (widthBytes p) (wireWord p a.toNat), BitVec.ofNat 4 (widthBytes p), p, 0#3, 0#1, 0#1⟩ := by
  obtain ⟨h, -⟩ | ⟨-, _, rfl, hr⟩ := vliEncode_cases a
  · omega
  · rw [hr, hp]

theorem minWidthClass_of_lt_two_pow_6 {v : Nat} (h : v < 2 ^ 6) : minWidthClass v = 0#2 := if_pos h

theorem minWidthClass_of_lt_two_pow_14 {v : Nat} (h : 2 ^ 6 ≤ v) (h' : v < 2 ^ 14) : minWidthClass v = 1#2 := by
  rw [minWidthClass, if_neg h.not_gt, if_pos h']

theorem minWidthClass_of_lt_two_pow_30 {v : Nat} (h : 2 ^ 14 ≤ v) (h' : v < 2 ^ 30) : minWidthClass v = 2#2 := by
  rw [minWidthClass, if_neg (by omega), if_neg h.not_gt, if_pos h']

theorem minWidthClass_of_two_pow_30_le {v : Nat} (h : 2 ^ 30 ≤ v) : minWidthClass v = 3#2 := by
  rw [minWidthClass, if_neg (by omega), if_neg (by omega), if_neg h.not_gt]

/-- Settles O17: the range gives the class, and the class the response. -/
theorem vliEncodeResponse : Obligations.VliEncodeResponse := by
  refine ⟨fun _ => decode_vliEncode, fun v s => ?_⟩
  have hmax : vliMax = 2 ^ 62 - 1 := rfl
  rw [exec_vliEncode]
  refine ⟨fun h => ?_, fun h => ?_, fun h h' => ?_, fun h h' => ?_, fun h h' => ?_⟩
  · rw [vliEncode_of_out_of_range h]
    rfl
  · rw [vliEncode_of_minWidthClass (by omega) (minWidthClass_of_lt_two_pow_6 h)]
    rfl
  · rw [vliEncode_of_minWidthClass (by omega) (minWidthClass_of_lt_two_pow_14 h h')]
    rfl
  · rw [vliEncode_of_minWidthClass (by omega) (minWidthClass_of_lt_two_pow_30 h h')]
    rfl
  · rw [vliEncode_of_minWidthClass h' (minWidthClass_of_two_pow_30_le h)]
    rfl

/-! ### What VLI_DECODE reads -/

theorem legalLength_bounds {n : BitVec 4} (h : legalLength n = true) : 0 < n.toNat ∧ n.toNat ≤ 8 := by
  revert n
  decide

/-- The value bits are those of the lanes declared, without the selector (R59). -/
theorem valueBits_eq_lanes (a : Word) {L : Nat} (hL : L ≤ 8) :
    (valueBits a L).toNat = bigEndian (lanes L a) % 2 ^ usableBits L := by
  rw [valueBits_toNat a L hL, bigEndian_lanes L a hL, usableBits]

theorem valueBits_lt (a : Word) {L : Nat} (hL : L ≤ 8) : (valueBits a L).toNat < 2 ^ usableBits L :=
  valueBits_eq_lanes a hL ▸ Nat.mod_lt _ (Nat.two_pow_pos _)

/-- The widest class has 62 usable bits (R25). -/
theorem valueBits_le_vliMax (a : Word) {L : Nat} (hL : L ≤ 8) : (valueBits a L).toNat ≤ vliMax := by
  have h62 : 2 ^ usableBits L ≤ 2 ^ 62 := Nat.pow_le_pow_right (by decide) (by rw [usableBits]; omega)
  exact Nat.le_sub_one_of_lt ((valueBits_lt a hL).trans_le h62)

theorem vliDecode_congr_lanes {a a' : Word} {n : BitVec 4} (hn : legalLength n = true)
    (h : ∀ k < n.toNat, lane k a = lane k a') : vliDecode a n = vliDecode a' n := by
  obtain ⟨hpos, h8⟩ := legalLength_bounds hn
  have hsel : selector a = selector a' := by rw [← lane_zero_selector, h 0 hpos, lane_zero_selector]
  have hlanes : lanes n.toNat a = lanes n.toNat a' :=
    List.map_congr_left fun k hk => h k (List.mem_range.mp hk)
  have hval : valueBits a n.toNat = valueBits a' n.toNat :=
    BitVec.eq_of_toNat_eq (by rw [valueBits_eq_lanes a h8, valueBits_eq_lanes a' h8, hlanes])
  rw [vliDecode, vliDecode, hsel, hval]

/-- Settles O29: a legal length reads the lanes it declares, any other reads none. -/
theorem decoderReadsOnlyDeclaredLanes : Obligations.DecoderReadsOnlyDeclaredLanes := by
  intro q q' hop hop' hn h
  rw [eval_vliDecode hop, eval_vliDecode hop', ← hn]
  by_cases hlegal : legalLength q.n = true
  · exact vliDecode_congr_lanes hlegal (h ((legalLength_iff _).mp hlegal))
  · rw [vliDecode_of_illegal_length hlegal, vliDecode_of_illegal_length hlegal]

/-- Settles O32. -/
theorem nonMinimalEncodingsDecode : Obligations.NonMinimalEncodingsDecode := by
  intro p v hv
  change _ = widthBytes p ∧ (eval (decodeRequest _ (BitVec.ofNat 4 (widthBytes p)))).err = _ ∧
    (eval (decodeRequest _ (BitVec.ofNat 4 (widthBytes p)))).y.toNat = _
  rw [eval_decodeRequest_vliBytes hv]
  exact ⟨vliBytes_length p v, rfl, Nat.mod_eq_of_lt (lt_two_pow_64_of_fits hv)⟩

theorem vliDecode_err_ne_valueOutOfRange (a : Word) (n : BitVec 4) : (vliDecode a n).err ≠ 3#3 := by
  obtain ⟨-, hr⟩ | ⟨-, -, hr⟩ | ⟨-, -, hr⟩ := vliDecode_cases a n
  · rw [hr, raise_err]
    decide
  · rw [hr, raise_err]
    decide
  · rw [hr]
    change 0#3 ≠ 3#3
    decide

/-- Settles O34: the value decoded fits the usable bits of its class. -/
theorem decodedValueRange : Obligations.DecodedValueRange := by
  intro q hop
  rw [eval_vliDecode hop]
  refine ⟨vliDecode_err_ne_valueOutOfRange _ _, fun h => ?_⟩
  obtain ⟨-, htop⟩ := vliDecode_drives h
  have hw := (vliDecode_err_eq_zero_iff _ _).mp h
  have hn : q.n.toNat ≤ 8 := hw ▸ widthBytes_le _
  rw [vliDecode_success h] at htop ⊢
  refine ⟨valueBits_le_vliMax q.a hn, htop, ?_⟩
  change (valueBits q.a q.n.toNat).toNat < 2 ^ usableBits (widthBytes (selector q.a))
  rw [hw]
  exact valueBits_lt q.a hn

/-! ### The outputs of VLI_ENCODE, bit by bit -/

/-- The bits from `lo` up of a value that ends at bit `hi` are 0 exactly when the value is below them. -/
theorem extractLsb_eq_zero_iff {a : Word} {hi lo : Nat} (hlo : lo ≤ hi) (ha : a.toNat < 2 ^ (hi + 1)) :
    a.extractLsb hi lo = 0#(hi - lo + 1) ↔ a.toNat < 2 ^ lo := by
  have hdiv : a.toNat / 2 ^ lo < 2 ^ (hi - lo + 1) := by
    rwa [Nat.div_lt_iff_lt_mul (Nat.two_pow_pos _), ← Nat.pow_add, show hi - lo + 1 + lo = hi + 1 by omega]
  rw [← BitVec.toNat_inj, BitVec.extractLsb_toNat, Nat.shiftRight_eq_div_pow, Nat.mod_eq_of_lt hdiv, BitVec.toNat_ofNat,
    Nat.zero_mod, Nat.div_eq_zero_iff_lt (Nat.two_pow_pos _)]

/-- Settles O35: each test asks whether the value reaches the range of R63 below it. -/
theorem encoderWidthIsPriorityTest : Obligations.EncoderWidthIsPriorityTest := by
  intro q hop htop
  have hlt : q.a.toNat < 2 ^ 62 := (extractLsb_eq_zero_iff (by decide) q.a.isLt).mp htop
  have hmax : vliMax = 2 ^ 62 - 1 := rfl
  rw [eval_vliEncode hop, vliEncode_eq (by omega)]
  refine ⟨rfl, ?_⟩
  have h30 := extractLsb_eq_zero_iff (hi := 61) (lo := 30) (by decide) hlt
  by_cases hlt30 : q.a.toNat < 2 ^ 30
  · rw [if_neg (not_not.mpr (h30.mpr hlt30))]
    have h14 := extractLsb_eq_zero_iff (hi := 29) (lo := 14) (by decide) hlt30
    by_cases hlt14 : q.a.toNat < 2 ^ 14
    · rw [if_neg (not_not.mpr (h14.mpr hlt14))]
      have h6 := extractLsb_eq_zero_iff (hi := 13) (lo := 6) (by decide) hlt14
      by_cases hlt6 : q.a.toNat < 2 ^ 6
      · rw [if_neg (not_not.mpr (h6.mpr hlt6))]
        exact minWidthClass_of_lt_two_pow_6 hlt6
      · rw [if_pos (mt h6.mp hlt6)]
        exact minWidthClass_of_lt_two_pow_14 (Nat.le_of_not_lt hlt6) hlt14
    · rw [if_pos (mt h14.mp hlt14)]
      exact minWidthClass_of_lt_two_pow_30 (Nat.le_of_not_lt hlt14) hlt30
  · rw [if_pos (mt h30.mp hlt30)]
    exact minWidthClass_of_two_pow_30_le (Nat.le_of_not_lt hlt30)

section Fits

variable {p : BitVec 2} {v : Nat} (hv : v < 2 ^ usableBits (widthBytes p))
include hv

/-- The usable bits of a VLI on a port are those of its value (R87). -/
theorem usableBits_portOf_vliBytes :
    (portOf (vliBytes p v)).extractLsb' (64 - 8 * widthBytes p) (usableBits (widthBytes p)) =
      BitVec.ofNat (usableBits (widthBytes p)) v := by
  apply BitVec.eq_of_toNat_eq
  rw [BitVec.extractLsb'_toNat, Nat.shiftRight_eq_div_pow, portOf_vliBytes_div hv, wireWord_mod hv, BitVec.toNat_ofNat,
    Nat.mod_eq_of_lt hv]

/-- The bits after a VLI on a port are 0 (R38). -/
theorem bits_after_portOf_vliBytes : (portOf (vliBytes p v)).extractLsb' 0 (64 - 8 * widthBytes p) = 0#_ := by
  apply BitVec.eq_of_toNat_eq
  rw [BitVec.extractLsb'_toNat, portOf_vliBytes_toNat hv, Nat.shiftRight_zero, Nat.mul_mod_left, BitVec.toNat_ofNat,
    Nat.zero_mod]

end Fits

/-- Settles O36: the bits of a VLI on a port, in each of the four widths. -/
theorem encoderOutputBits : Obligations.EncoderOutputBits := by
  intro q hop h
  rw [eval_vliEncode hop] at h ⊢
  have ha := vliEncode_success h
  have hfits := minWidthClass_fits ha
  rw [vliEncode_eq ha]
  generalize minWidthClass q.a.toNat = p at hfits ⊢
  refine ⟨selector_portOf_vliBytes hfits, ?_⟩
  have hvalue := usableBits_portOf_vliBytes hfits
  have hafter := bits_after_portOf_vliBytes hfits
  obtain ⟨rfl, -⟩ | ⟨rfl, -⟩ | ⟨rfl, -⟩ | ⟨rfl, -⟩ := widthBytes_selector_cases p
  · exact .inl ⟨rfl, rfl, hvalue, hafter⟩
  · exact .inr (.inl ⟨rfl, rfl, hvalue, hafter⟩)
  · exact .inr (.inr (.inl ⟨rfl, rfl, hvalue, hafter⟩))
  · exact .inr (.inr (.inr ⟨rfl, rfl, hvalue⟩))

/-! ### Canonical encodings -/

/-- The width of a class names the class (R58). -/
theorem widthBytes_inj : ∀ {p p' : BitVec 2}, widthBytes p = widthBytes p' → p = p' := by
  decide

/-- The VLIs of one value differ in their width alone. -/
theorem vliBytes_eq_iff {p p' : BitVec 2} {v : Nat} : vliBytes p v = vliBytes p' v ↔ widthBytes p = widthBytes p' :=
  ⟨fun h => by simpa using congrArg List.length h, fun h => by rw [widthBytes_inj h]⟩

theorem lanes_getElem? {L k : Nat} (hk : k < L) (a : Word) : (lanes L a)[k]? = some (lane k a) := by
  simp [lanes, hk]

/-- The wire bytes that a successful decode has read are the VLI of the value in the class they select. -/
theorem lanes_eq_vliBytes {a : Word} {L : Nat} (hL : widthBytes (selector a) = L) :
    lanes L a = vliBytes (selector a) (valueBits a L).toNat := by
  have h8 : L ≤ 8 := hL ▸ widthBytes_le _
  have hpos : 0 < L := hL ▸ Nat.two_pow_pos _
  have hlane : some (lane 0 (portOf (lanes L a))) = some (lane 0 a) := by
    rw [lane_portOf _ (by simpa using h8) (by simpa using hpos), lanes_getElem? hpos]
  have hsel : selector (portOf (lanes L a)) = selector a := by
    rw [← lane_zero_selector, Option.some.inj hlane, lane_zero_selector]
  rw [valueBits_eq_lanes a h8, ← hL]
  exact eq_vliBytes (lanes_length _ _) (hL ▸ hsel)

/-- Settles O39: the bytes sent and the bytes read are VLIs of one value, so they are the same exactly when their widths are. -/
theorem encodingIsCanonical : Obligations.EncodingIsCanonical := by
  refine ⟨fun v hv => ?_, ?_⟩
  · rw [eval_encode_vliEncode, vliEncode_eq hv, ← widthBytes_minWidthClass]
    exact (legalLength_widthBytes _).2
  · rintro q _ _ hop rfl h rfl
    rw [eval_vliDecode hop] at h ⊢
    have hw := (vliDecode_err_eq_zero_iff _ _).mp h
    have hn : q.n.toNat ≤ 8 := hw ▸ widthBytes_le _
    rw [vliDecode_success h]
    change sentBytes (eval (encode (.vliEncode (valueBits q.a q.n.toNat)))) = lanes q.n.toNat q.a ↔ _
    rw [eval_encode_vliEncode, sentBytes_vliEncode (valueBits_le_vliMax q.a hn), lanes_eq_vliBytes hw, vliBytes_eq_iff,
      widthBytes_minWidthClass, hw, eq_comm]

end Sys2Proof.Machine
end

section
/-! PROOFS. The statements of 41_stream_frame.md: the responses of FT_PARSE (R100, R101), FT_BUILD (R102, R103), FRAME_CHECK
(R104) and SID_CLASS (R107 to R109). -/

namespace Sys2Proof.Machine

/-! ### The check of the type byte -/

theorem typeFailure_of_bit3_clear {t : Byte} (h3 : t.getLsbD 3 = false) : typeFailure t = some 0#1 := if_pos h3

theorem typeFailure_of_high_bits {t : Byte} (h3 : t.getLsbD 3 = true) (h4 : t.extractLsb 7 4 ≠ 0#4) :
    typeFailure t = some 1#1 := by
  rw [typeFailure, h3]
  exact if_pos h4

theorem typeFailure_of_legal {t : Byte} (h3 : t.getLsbD 3 = true) (h4 : t.extractLsb 7 4 = 0#4) :
    typeFailure t = none := by
  rw [typeFailure, h3]
  exact if_neg (not_not.mpr h4)

/-- The acceptance set (R101). -/
theorem typeFailure_eq_none_iff : ∀ t : Byte, typeFailure t = none ↔ 0x08 ≤ t.toNat ∧ t.toNat ≤ 0x0F := by
  decide

/-! ### FT_PARSE and FRAME_CHECK -/

theorem decode_ftParse {q : Request} (h : q.op = 0b010#3) : decode q = .ftParse q.t := by
  cases q
  cases h
  rfl

theorem decode_frameCheck {q : Request} (h : q.op = 0b100#3) : decode q = .frameCheck q.t q.a q.b := by
  cases q
  cases h
  rfl

theorem exec_ftParse (t : Byte) (s : State) :
    exec (.ftParse t) s = .next (s.afterResponse (ftParse t)) := exec_of_wellFormed rfl s

theorem exec_frameCheck (t : Byte) (a b : Word) (s : State) :
    exec (.frameCheck t a b) s = .next (s.afterResponse (frameCheck t a b)) := exec_of_wellFormed rfl s

theorem eval_encode_ftParse (t : Byte) : eval (encode (.ftParse t)) = ftParse t := eval_ftParse rfl

theorem eval_encode_frameCheck (t : Byte) (a b : Word) : eval (encode (.frameCheck t a b)) = frameCheck t a b :=
  eval_frameCheck rfl

theorem ftParse_rejects {t : Byte} {ftw : BitVec 1} (ht : typeFailure t = some ftw) :
    ftParse t = raise .invalidFrameType ftw := by
  rw [ftParse, ht]

/-- Check (a) comes first: the sum is not looked at (R104, R133). -/
theorem frameCheck_rejects {t : Byte} {ftw : BitVec 1} (ht : typeFailure t = some ftw) (a b : Word) :
    frameCheck t a b = raise .invalidFrameType ftw := by
  rw [frameCheck, ht]

theorem ftParse_accepts {t : Byte} (ht : typeFailure t = none) :
    ftParse t = ⟨0#3, 0#1, 0#64, 0#4, 0#2, frameFlags t, 0#1, 0#1⟩ := by
  obtain ⟨ftw, h, -⟩ | ⟨-, h⟩ := ftParse_cases t
  · cases ht.symm.trans h
  · exact h

theorem frameCheck_of_overflow {t : Byte} {a b : Word} (ht : typeFailure t = none)
    (hsum : vliMax < (effectiveOffset t a).toNat + b.toNat) : frameCheck t a b = raise .offsetOverflow 0#1 := by
  obtain ⟨ftw, h, -⟩ | ⟨-, -, h⟩ | ⟨-, h, -⟩ := frameCheck_cases t a b
  · cases ht.symm.trans h
  · exact h
  · omega

theorem effectiveOffset_toNat (t : Byte) (a : Word) :
    (effectiveOffset t a).toNat = if t.getLsbD 2 then a.toNat else 0 := apply_ite BitVec.toNat _ _ _

/-- Settles O18: the type byte gives the check's answer, and that the response. -/
theorem ftParseResponse : Obligations.FtParseResponse := by
  refine ⟨fun _ => decode_ftParse, fun t s => ?_⟩
  rw [exec_ftParse]
  refine ⟨fun h3 => ?_, fun h3 h4 => ?_, fun h3 h4 => ?_⟩
  · rw [ftParse_rejects (typeFailure_of_bit3_clear h3)]
    rfl
  · rw [ftParse_rejects (typeFailure_of_high_bits h3 h4)]
    rfl
  · rw [ftParse_accepts (typeFailure_of_legal h3 h4)]
    rfl

/-- Settles O20: check (a) on the type byte, then check (c) on the effective offset. -/
theorem frameCheckResponse : Obligations.FrameCheckResponse := by
  refine ⟨fun _ => decode_frameCheck, ?_⟩
  rintro t a b s _ rfl
  rw [exec_frameCheck, ← effectiveOffset_toNat]
  refine ⟨fun h3 => ?_, fun h3 h4 => ?_, fun h3 h4 hsum => ?_, fun h3 h4 hsum => ?_⟩
  · rw [frameCheck_rejects (typeFailure_of_bit3_clear h3)]
    rfl
  · rw [frameCheck_rejects (typeFailure_of_high_bits h3 h4)]
    rfl
  · rw [frameCheck_of_overflow (typeFailure_of_legal h3 h4) hsum]
    rfl
  · rw [frameCheck_accepts (typeFailure_of_legal h3 h4) hsum, BitVec.ofNat_toNat, BitVec.setWidth_eq]
    rfl

/-- Settles O42, case by case of what FRAME_CHECK answers. -/
theorem frameCheckAgreesWithFtParse : Obligations.FrameCheckAgreesWithFtParse := by
  intro t a b
  rw [eval_encode_ftParse, eval_encode_frameCheck]
  obtain ⟨ftw, ht, hr⟩ | ⟨ht, -, hr⟩ | ⟨ht, -, hr⟩ := frameCheck_cases t a b
  · rw [hr, ftParse_rejects ht]
    exact ⟨fun _ => rfl, nofun⟩
  · rw [hr, ftParse_accepts ht]
    exact ⟨fun h => absurd rfl h, fun _ => .inr rfl⟩
  · rw [hr, ftParse_accepts ht]
    exact ⟨fun h => absurd rfl h, fun _ => .inl ⟨rfl, rfl⟩⟩

theorem ftParse_err_eq_zero_iff (t : Byte) : (ftParse t).err = 0#3 ↔ typeFailure t = none := by
  obtain ⟨ftw, ht, hr⟩ | ⟨ht, hr⟩ := ftParse_cases t
  · rw [hr, ht]
    exact iff_of_false nofun nofun
  · rw [hr, ht]
    exact iff_of_true rfl rfl

/-- A count over a range, row by row of `m` numbers. -/
theorem length_filter_range_mul (p : Nat → Bool) (n m : Nat) :
    ((List.range (n * m)).filter p).length =
      ((List.range n).map fun row => (List.range m).countP fun k => p (row * m + k)).sum := by
  induction n with
  | zero => simp
  | succ n ih =>
    rw [Nat.succ_mul, List.range_add, List.filter_append, List.length_append, ih, List.range_succ, List.map_append,
      List.sum_append, ← List.countP_eq_length_filter (l := List.map _ _), List.countP_map]
    simp [Function.comp_def]

/-- Settles O40: the acceptance set for any byte, then the counts over the type bytes, 16 rows (`t[7:4]`) of 16. -/
theorem ftParseAcceptanceSet : Obligations.FtParseAcceptanceSet := by
  have hrows (p : Nat → Bool) := length_filter_range_mul p 16 16
  refine ⟨fun t => ?_, (hrows _).trans ?_, (hrows _).trans ?_, (hrows _).trans ?_⟩
  · rw [eval_encode_ftParse, ftParse_err_eq_zero_iff, typeFailure_eq_none_iff]
  all_goals decide

/-! ### FT_BUILD -/

theorem decode_ftBuild {q : Request} (h : q.op = 0b011#3) :
    decode q = .ftBuild (q.t.getLsbD 2) (q.t.getLsbD 1) (q.t.getLsbD 0) := by
  cases q
  cases h
  rfl

theorem exec_ftBuild (off len fin : Bool) (s : State) :
    exec (.ftBuild off len fin) s = .next (s.afterResponse (ftBuild off len fin)) := exec_of_wellFormed rfl s

theorem flagPort_getLsbD : ∀ off len fin : Bool,
    (flagPort off len fin).getLsbD 2 = off ∧ (flagPort off len fin).getLsbD 1 = len ∧
    (flagPort off len fin).getLsbD 0 = fin := by
  decide

theorem eval_encode_ftBuild (off len fin : Bool) : eval (encode (.ftBuild off len fin)) = ftBuild off len fin := by
  obtain ⟨hoff, hlen, hfin⟩ := flagPort_getLsbD off len fin
  rw [eval_ftBuild rfl]
  simp only [encode, hoff, hlen, hfin]

/-- The byte built, as a number (R102). -/
theorem packType_setWidth : ∀ off len fin : Bool,
    (packType off len fin).setWidth 64 = BitVec.ofNat 64 (0x08 + off.toNat * 4 + len.toNat * 2 + fin.toNat) := by
  decide

/-- The byte built is legal and holds the flags (R67, R103). -/
theorem packType_parses : ∀ off len fin : Bool,
    typeFailure (packType off len fin) = none ∧
    frameFlags (packType off len fin) = BitVec.ofBool off ++ BitVec.ofBool len ++ BitVec.ofBool fin := by
  decide

/-- Settles O19: the byte is `{0b00001, t[2:0]}` by its bits and `0x08 + 4 off + 2 len + fin` by its flags. -/
theorem ftBuildResponse : Obligations.FtBuildResponse := by
  refine ⟨fun q hop => ⟨decode_ftBuild hop, ?_⟩, fun off len fin s => ?_⟩
  · rw [eval_ftBuild hop, ftBuild_eq, packType_eq_append]
  · rw [exec_ftBuild, ftBuild_eq, packType_setWidth]

/-- Settles O41: the byte on `y[7:0]` is the one FT_BUILD packs, and FT_PARSE accepts it. -/
theorem flagSymmetry : Obligations.FlagSymmetry := by
  intro off len fin
  obtain ⟨hlegal, hflags⟩ := packType_parses off len fin
  obtain ⟨hbyte, -⟩ := byte_setWidth_slices (packType off len fin)
  rw [eval_encode_ftBuild, ftBuild_eq, hbyte, eval_encode_ftParse, ftParse_accepts hlegal, hflags]

/-! ### SID_CLASS -/

theorem decode_sidClass {q : Request} (h : q.op = 0b101#3) : decode q = .sidClass q.a := by
  cases q
  cases h
  rfl

theorem exec_sidClass (a : Word) (s : State) :
    exec (.sidClass a) s = .next (s.afterResponse (sidClass a)) := exec_of_wellFormed rfl s

theorem eval_encode_sidClass (a : Word) : eval (encode (.sidClass a)) = sidClass a := eval_sidClass rfl

theorem initiatorBit_eq_ofBool (a : Word) : initiatorBit a = BitVec.ofBool (a.getLsbD 0) := by
  ext i hi
  simp [initiatorBit, Nat.lt_one_iff.mp hi]

theorem directionBit_eq_ofBool (a : Word) : directionBit a = BitVec.ofBool (a.getLsbD 1) := by
  ext i hi
  simp [directionBit, Nat.lt_one_iff.mp hi]

/-- The response is a function of `a[1:0]` (R109). -/
theorem sidClass_eq_low_bits (a : Word) :
    sidClass a = ⟨0#3, 0#1, 0#64, 0#4, 0#2, 0#3, BitVec.ofBool ((a.extractLsb 1 0).getLsbD 0),
      BitVec.ofBool ((a.extractLsb 1 0).getLsbD 1)⟩ := by
  rw [sidClass_eq, initiatorBit_eq_ofBool, directionBit_eq_ofBool]
  simp

/-- Settles O21: the two bits read are `a[0]` and `a[1]`. -/
theorem sidClassResponse : Obligations.SidClassResponse := by
  refine ⟨fun _ => decode_sidClass, fun a s => ?_⟩
  rw [exec_sidClass, sidClass_eq, initiatorBit_eq_ofBool, directionBit_eq_ofBool]

/-- Settles O44: `sidClass_eq_low_bits`, then its value for each of the four pairs of bits. -/
theorem streamTypesByLowTwoBits : Obligations.StreamTypesByLowTwoBits := by
  refine ⟨fun a a' h => ?_, fun a => ?_⟩
  · rw [eval_encode_sidClass, eval_encode_sidClass, sidClass_eq_low_bits, sidClass_eq_low_bits, h]
  · rw [eval_encode_sidClass, sidClass_eq_low_bits]
    refine ⟨fun h => ?_, fun h => ?_, fun h => ?_, fun h => ?_⟩
    all_goals
      rw [h]
      exact ⟨rfl, rfl⟩

end Sys2Proof.Machine
end

section
/-! PROOFS. The statements of 60_exceptions.md: what an error leaves alone (R131), and the kinds of error with their causes
(R132). -/

namespace Sys2Proof.Machine

/-! ### What a request changes -/

/-- The whole state after a request, its frame written out. -/
theorem afterRequest_eq (q : Request) (s : State) :
    s.afterRequest q =
      { s with
        inp := q, out := eval q, responses := s.responses ++ [eval q], index := s.index + 1,
        recorded := s.recorded ++ faultsFrom s.index [q] } := by
  rw [← afterRequest_recorded]
  rfl

section Fields

variable (qs : List Request) (s : State)

@[simp] theorem afterRequests_program : (s.afterRequests qs).program = s.program := by
  induction qs generalizing s with
  | nil => rfl
  | cons q qs ih => rw [afterRequests_cons, ih, afterRequest_program]

@[simp] theorem afterRequests_index : (s.afterRequests qs).index = s.index + qs.length := by
  induction qs generalizing s with
  | nil => rfl
  | cons q qs ih => rw [afterRequests_cons, ih, afterRequest_index, List.length_cons, Nat.add_right_comm, Nat.add_assoc]

/-- A run records the faults of the requests it presents. -/
@[simp] theorem afterRequests_recorded :
    (s.afterRequests qs).recorded = s.recorded ++ faultsFrom s.index qs := by
  induction qs generalizing s with
  | nil => exact (List.append_nil _).symm
  | cons q qs ih =>
    calc ((s.afterRequest q).afterRequests qs).recorded
        = s.recorded ++ (faultsFrom s.index [q] ++ faultsFrom (s.index + 1) qs) := by
          rw [ih, afterRequest_recorded, afterRequest_index, List.append_assoc]
      _ = s.recorded ++ faultsFrom s.index (q :: qs) := congrArg _ (faultsFrom_append s.index [q] qs).symm

end Fields

theorem afterRequests_concat (qs : List Request) (q : Request) (s : State) :
    s.afterRequests (qs ++ [q]) = (s.afterRequests qs).afterRequest q := List.foldl_append

/-- A run up to the request `k` places on answers that request last, whatever it presented before. -/
theorem run_answers_request_last {s : State} {k : Nat} {q : Request} (h : s.program[s.index + k]? = some q) :
    ∃ u, Host.Core.run Sys2Proof.core (k + 1) s = .next u ∧ u.inp = q ∧ u.out = eval q ∧
      u.index = s.index + (k + 1) ∧ u.program = s.program ∧
      u.responses = s.responses ++ ((s.program.drop s.index).take (k + 1)).map eval ∧
      u.recorded = s.recorded ++ faultsFrom s.index ((s.program.drop s.index).take (k + 1)) := by
  have hlast : (s.program.drop s.index).take (k + 1) = (s.program.drop s.index).take k ++ [q] := by
    rw [List.take_add_one, List.getElem?_drop, h]
    rfl
  have hlen : ((s.program.drop s.index).take (k + 1)).length = k + 1 := by
    have := (List.getElem?_eq_some_iff.mp h).1
    simp only [List.length_take, List.length_drop]
    omega
  have hrun := run_eq_next _ s (List.take_prefix (k + 1) _)
  rw [hlen] at hrun
  refine ⟨_, hrun, ?_, ?_, ?_, afterRequests_program _ s, afterRequests_responses _ s, afterRequests_recorded _ s⟩
  · rw [hlast, afterRequests_concat, afterRequest_inp]
  · rw [hlast, afterRequests_concat, afterRequest_out]
  · rw [afterRequests_index, hlen]

/-- Settles O12: a request, with an error or without, leaves `State.afterRequest`, and a run from there answers each later
request by `eval` of it. -/
theorem errorLeavesNextResponseAlone : Obligations.ErrorLeavesNextResponseAlone := by
  intro s q hq _
  refine ⟨s.afterRequest q, step_eq_next hq, afterRequest_eq q s, fun k q' hq' => ?_⟩
  obtain ⟨u, hrun, hinp, hout, hindex, hprogram, hresponses, hrecorded⟩ :=
    run_answers_request_last (s := s.afterRequest q) hq'
  rw [afterRequest_responses, List.append_assoc] at hresponses
  exact ⟨u, hrun, hinp, hout, hindex, hprogram, hresponses, hrecorded⟩

/-! ### The kinds of error and their causes -/

/-- The operations that raise a kind of error and the cause for which they do (R132), with the checks in the order of R133.
A success is raised by nothing. Tied to the model by `eval_err_eq_code_iff`. -/
def ErrKind.Cause (q : Request) : ErrKind → Prop
  | .ok => False
  | .invalidLength => q.op = 0b000#3 ∧ ¬ legalLength q.n = true
  | .lengthMismatch => q.op = 0b000#3 ∧ legalLength q.n = true ∧ widthBytes (selector q.a) ≠ q.n.toNat
  | .valueOutOfRange => q.op = 0b001#3 ∧ vliMax < q.a.toNat
  | .invalidFrameType => (q.op = 0b010#3 ∨ q.op = 0b100#3) ∧ ¬ typeFailure q.t = none
  | .offsetOverflow =>
    q.op = 0b100#3 ∧ typeFailure q.t = none ∧ vliMax < (effectiveOffset q.t q.a).toNat + q.b.toNat
  | .illegalOp => q.op = 0b110#3 ∨ q.op = 0b111#3

/-- A kind is raised where its cause holds. -/
theorem eval_err_of_cause {q : Request} {e : ErrKind} (h : e.Cause q) : (eval q).err = e.code := by
  cases e with
  | ok => exact h.elim
  | invalidLength =>
    obtain ⟨hop, hn⟩ := h
    rw [eval_vliDecode hop, vliDecode_of_illegal_length hn, raise_err]
  | lengthMismatch =>
    obtain ⟨hop, hn, hw⟩ := h
    rw [eval_vliDecode hop, vliDecode_of_other_width hn hw, raise_err]
  | valueOutOfRange =>
    obtain ⟨hop, ha⟩ := h
    rw [eval_vliEncode hop, vliEncode_of_out_of_range ha, raise_err]
  | invalidFrameType =>
    obtain ⟨hop, ht⟩ := h
    obtain ⟨ftw, ht⟩ := Option.ne_none_iff_exists'.mp ht
    obtain hop | hop := hop
    · rw [eval_ftParse hop, ftParse_rejects ht, raise_err]
    · rw [eval_frameCheck hop, frameCheck_rejects ht, raise_err]
  | offsetOverflow =>
    obtain ⟨hop, ht, hsum⟩ := h
    rw [eval_frameCheck hop, frameCheck_of_overflow ht hsum, raise_err]
  | illegalOp => rw [eval_reserved h, raise_err]

/-- A response is a success, or it carries the code of a kind whose cause holds. -/
theorem eval_err_cases (q : Request) : (eval q).err = 0#3 ∨ ∃ e : ErrKind, (eval q).err = e.code ∧ e.Cause q := by
  suffices h : (eval q).err = 0#3 ∨ ∃ e : ErrKind, e.Cause q from
    h.imp_right fun ⟨e, he⟩ => ⟨e, eval_err_of_cause he, he⟩
  rcases opcode_cases q.op with hop | hop | hop | hop | hop | hop | hop | hop
  · rw [eval_vliDecode hop]
    obtain ⟨hn, -⟩ | ⟨hn, hw, -⟩ | ⟨-, -, hr⟩ := vliDecode_cases q.a q.n
    · exact .inr ⟨.invalidLength, hop, Bool.eq_false_iff.mp hn⟩
    · exact .inr ⟨.lengthMismatch, hop, hn, hw⟩
    · exact .inl (hr ▸ rfl)
  · rw [eval_vliEncode hop]
    obtain ⟨ha, -⟩ | ⟨-, p, -, hr⟩ := vliEncode_cases q.a
    · exact .inr ⟨.valueOutOfRange, hop, ha⟩
    · exact .inl (hr ▸ rfl)
  · rw [eval_ftParse hop]
    obtain ⟨ftw, ht, -⟩ | ⟨-, hr⟩ := ftParse_cases q.t
    · exact .inr ⟨.invalidFrameType, .inl hop, by simp [ht]⟩
    · exact .inl (hr ▸ rfl)
  · rw [eval_ftBuild hop]
    exact .inl rfl
  · rw [eval_frameCheck hop]
    obtain ⟨ftw, ht, -⟩ | ⟨ht, hsum, -⟩ | ⟨-, -, hr⟩ := frameCheck_cases q.t q.a q.b
    · exact .inr ⟨.invalidFrameType, .inr hop, by simp [ht]⟩
    · exact .inr ⟨.offsetOverflow, hop, ht, hsum⟩
    · exact .inl (hr ▸ rfl)
  · rw [eval_sidClass hop]
    exact .inl rfl
  · exact .inr ⟨.illegalOp, .inl hop⟩
  · exact .inr ⟨.illegalOp, .inr hop⟩

/-- Each kind has a code of its own (R71). -/
theorem code_inj {e e' : ErrKind} (h : e.code = e'.code) : e = e' := by
  revert h
  cases e <;> cases e' <;> decide

/-- An error kind is raised exactly where its cause holds (R132). -/
theorem eval_err_eq_code_iff (q : Request) {e : ErrKind} (he : e ≠ .ok) : (eval q).err = e.code ↔ e.Cause q := by
  refine ⟨fun h => ?_, eval_err_of_cause⟩
  obtain h0 | ⟨e', h', hcause⟩ := eval_err_cases q
  · exact absurd (code_inj (e' := .ok) (h.symm.trans h0)) he
  · rwa [code_inj (h.symm.trans h')]

/-- No kind has code 6 (R71). -/
theorem code_ne_six (e : ErrKind) : e.code ≠ 6#3 := by
  cases e <;> decide

theorem eval_err_ne_six (q : Request) : (eval q).err ≠ 6#3 := by
  obtain h0 | ⟨e, he, -⟩ := eval_err_cases q
  · rw [h0]
    decide
  · rw [he]
    exact code_ne_six e

/-- Settles O25: `eval_err_eq_code_iff` for each kind; what `ftw` says of an invalid type byte is O24's. -/
theorem errorKindsAndCauses : Obligations.ErrorKindsAndCauses := by
  intro q
  have hcause (e : ErrKind) (he : e ≠ .ok) := eval_err_eq_code_iff q he
  simp only [← legalLength_iff, ← typeFailure_eq_none_iff, ← effectiveOffset_toNat]
  refine ⟨hcause .invalidLength nofun, hcause .lengthMismatch nofun, hcause .valueOutOfRange nofun,
    hcause .invalidFrameType nofun, hcause .offsetOverflow nofun, hcause .illegalOp nofun, eval_err_ne_six q, fun h4 => ?_⟩
  obtain ⟨-, -, -, -, -, -, -, hftw⟩ := errorResponseIsOtherwiseZero q (by rw [h4]; decide)
  exact hftw h4

end Sys2Proof.Machine
end

section
/-! PROOFS. The statements of 70_reset_and_hazards.md: the state after power-up (R150, R152), settling (R154), and the
observation of a run (R157). -/

namespace Sys2Proof.Machine

/-! ### Runs -/

/-- Settles O14: the run presents the whole list, which leaves `State.afterRequests`. -/
theorem runObservesEveryResponseInOrder : Obligations.RunObservesEveryResponseInOrder := by
  rintro s ⟨hindex, hresp⟩
  have hall : s.program <+: s.program.drop s.index := by rw [hindex, List.drop_zero]
  refine ⟨s.afterRequests s.program, run_eq_next s.program s hall, ?_, ?_, afterRequests_program _ s⟩
  · rw [afterRequests_responses, hresp, List.nil_append]
  · rw [afterRequests_index, hindex, Nat.zero_add]

/-! ### Power-up -/

/-- With all inputs 0 the request is VLI_DECODE with the illegal count 0, so the outputs carry InvalidLength (log entry 2). -/
theorem outputsFollowInputs_reset : OutputsFollowInputs State.reset :=
  calc State.reset.out
      = raise .invalidLength 0#1 := rfl
    _ = vliDecode Request.zero.a Request.zero.n := (vliDecode_of_illegal_length (by decide) _).symm
    _ = eval State.reset.inp := (eval_vliDecode rfl).symm

/-- Settles O47: the host has presented nothing, so it has observed nothing and nothing is recorded. -/
theorem resetMeetsInvariant : Obligations.ResetMeetsInvariant where
  outputs := outputsFollowInputs_reset
  observation := ⟨Nat.zero_le _, rfl⟩
  faults := rfl

/-- Settles O48: the step answers the request at index 0, the first of the host's list. -/
theorem firstRequestAfterPowerUpObeysTheRules : Obligations.FirstRequestAfterPowerUpObeysTheRules := by
  refine ⟨outputsFollowInputs_reset, fun q qs => ?_⟩
  have hfirst : (q :: qs)[State.reset.index]? = some q := List.getElem?_cons_zero
  exact ⟨_, step_eq_next hfirst, afterRequest_out q _, afterRequest_inp q _, afterRequest_responses q _⟩

/-! ### Settling -/

/-- Settles O49: a settled sample is the output ports as they are, and they follow the inputs. -/
theorem settledSampleIsEvalOfInputs : Obligations.SettledSampleIsEvalOfInputs := by
  intro s waited hfollow
  have hout : s.out = eval s.inp := hfollow
  rw [sampleOutputs, hout]

end Sys2Proof.Machine
end

section
/-! PROOFS. The statements of 30_encoding.md section 1 about the encoder and the packed form: the decoder undoes the encoder
(R51, R52), encoding again keeps what a format reads (R52, R53), and the packing loses nothing (R50; log entries 4 and 15). -/

namespace Sys2Proof.Machine

/-! ### The encoder on the ports -/

/-- Each operation's operands stand on the ports its format reads; only FT_BUILD's are moved, to three bits of `t`. -/
@[simp] theorem decode_encode (i : Instr) : decode (encode i) = i := by
  cases i with
  | ftBuild off len fin =>
    obtain ⟨hoff, hlen, hfin⟩ := flagPort_getLsbD off len fin
    rw [decode_ftBuild rfl]
    simp only [encode, hoff, hlen, hfin]
  | vliDecode | vliEncode | ftParse | frameCheck | sidClass | reserved6 | reserved7 => rfl

@[simp] theorem eval_encode (i : Instr) : eval (encode i) = respond i := congrArg respond (decode_encode i)

/-- Packing the low three bits of a byte keeps them (R76, FT_BUILD). -/
theorem flagPort_and_low_bits (t : Byte) :
    flagPort (t.getLsbD 2) (t.getLsbD 1) (t.getLsbD 0) &&& 0b00000111#8 = t &&& 0b00000111#8 := by
  revert t
  decide

@[simp] theorem encode_decode_op (q : Request) : (encode (decode q)).op = q.op := by
  obtain ⟨op, a, b, n, t⟩ := q
  rcases opcode_cases op with h | h | h | h | h | h | h | h <;> subst h <;> rfl

/-- A port the format does not read is cleared on both sides, and the encoder keeps what the format reads of the others
(R52, R53). -/
theorem mask_encode_decode (q : Request) :
    (decode q).format.reads.mask (encode (decode q)) = (decode q).format.reads.mask q := by
  have hop : ((decode q).format.reads.mask (encode (decode q))).op = ((decode q).format.reads.mask q).op := by
    rw [mask_op, mask_op, encode_decode_op]
  have hunread {k : Nat} (x : BitVec k) : 0#k &&& 0#k = x &&& 0#k := BitVec.and_zero.trans BitVec.and_zero.symm
  rcases opcode_cases q.op with h | h | h | h | h | h | h | h
  · rw [decode_vliDecode h] at hop ⊢
    exact Request.ext hop rfl (hunread q.b) rfl (hunread q.t)
  · rw [decode_vliEncode h] at hop ⊢
    exact Request.ext hop rfl (hunread q.b) (hunread q.n) (hunread q.t)
  · rw [decode_ftParse h] at hop ⊢
    exact Request.ext hop (hunread q.a) (hunread q.b) (hunread q.n) rfl
  · rw [decode_ftBuild h] at hop ⊢
    exact Request.ext hop (hunread q.a) (hunread q.b) (hunread q.n) (flagPort_and_low_bits q.t)
  · rw [decode_frameCheck h] at hop ⊢
    exact Request.ext hop rfl rfl (hunread q.n) rfl
  · rw [decode_sidClass h] at hop ⊢
    exact Request.ext hop rfl (hunread q.b) (hunread q.n) (hunread q.t)
  · rw [decode_reserved6 h] at hop ⊢
    exact Request.ext hop (hunread q.a) (hunread q.b) (hunread q.n) (hunread q.t)
  · rw [decode_reserved7 h] at hop ⊢
    exact Request.ext hop (hunread q.a) (hunread q.b) (hunread q.n) (hunread q.t)

/-! ### The packed form

The five ports are its digits in a mixed radix: each starts at the bit where the one before it ends (log entry 4), so the
bounds of the ports make every fact here linear arithmetic. -/

theorem toBits_lt (q : Request) : q.toBits < 2 ^ 143 := by
  unfold Request.toBits
  omega

@[simp] theorem ofBits_toBits (q : Request) : Request.ofBits q.toBits = q := by
  unfold Request.ofBits Request.toBits
  ext1
  all_goals
    apply BitVec.eq_of_toNat_eq
    rw [BitVec.toNat_ofNat]
    omega

theorem toBits_ofBits {w : Nat} (h : w < 2 ^ 143) : (Request.ofBits w).toBits = w := by
  simp only [Request.ofBits, Request.toBits, BitVec.toNat_ofNat]
  omega

theorem decodeWord_of_lt {w : Nat} (h : w < 2 ^ 143) : decodeWord w = .ok (decode (Request.ofBits w)) := if_pos h

theorem decodeWord_eq_error_iff (w : Nat) : decodeWord w = .error .widerThanARequest ↔ 2 ^ 143 ≤ w := by
  refine ⟨fun h => Nat.le_of_not_lt fun hlt => ?_, fun h => if_neg (Nat.not_lt.mpr h)⟩
  rw [decodeWord_of_lt hlt] at h
  cases h

@[simp] theorem decodeWord_encodeWord (i : Instr) : decodeWord (encodeWord i) = .ok i := by
  rw [encodeWord, decodeWord_of_lt (toBits_lt _), ofBits_toBits, decode_encode]

/-- A word that encodes an operation decodes to it from any field wide enough for it. -/
theorem decodeTableWord_of_encodeWord {nbits w : Nat} {i : Instr} (h : encodeWord i = w) (hw : w < 2 ^ nbits) :
    decodeTableWord nbits w = some i := by
  rw [decodeTableWord, Nat.mod_eq_of_lt hw, ← h, decodeWord_encodeWord]

/-! ### The statements -/

/-- Settles O4: on the ports and in the packed form. -/
theorem decodeInvertsEncode : Obligations.DecodeInvertsEncode := fun i =>
  ⟨decode_encode i, decodeWord_encodeWord i⟩

/-- Settles O5: the response is the decoded operation's, and the encoder's request decodes to that operation. -/
theorem encodeDecodeKeepsReadBits : Obligations.EncodeDecodeKeepsReadBits := fun q =>
  ⟨mask_encode_decode q, eval_encode (decode q)⟩

/-- Settles O6: packing and unpacking undo each other, and the decoder's bound is the packing's. -/
theorem packedFormIsExact : Obligations.PackedFormIsExact :=
  ⟨fun q => ⟨toBits_lt q, ofBits_toBits q⟩, fun _ => toBits_ofBits, decodeWord_eq_error_iff⟩

/-- Settles O3: each word is the encoding of its operation. -/
theorem sampleWordsDecode : Obligations.SampleWordsDecode := by
  refine ⟨?_, ?_, ?_, ?_, ?_, ?_, ?_, ?_⟩
  all_goals exact decodeTableWord_of_encodeWord rfl (by decide)

end Sys2Proof.Machine
end
